-- ==== Sys2Proof/Word.lean ====
section
/-! DEFINITION. The machine's plainest types: bytes, request words, pin levels, bring-up results and wire frames
(spec/00_scope.md R8, R9; spec/30_encoding.md R71, R76). -/

namespace Sys2Proof

/-- A byte: a value of host memory, of the serial link or of a payload (R8). -/
abbrev Byte := BitVec 8

/-- One of the six words of a request, and one of the two words of a response (R71, R84). -/
abbrev Word := BitVec 32

/-- The level of a pin (R9). -/
inductive Level where
  | low
  | high
deriving DecidableEq, Repr, Inhabited

/-- The other level: data frames use the level that is not `DC_CMD_LEVEL` (R131). -/
def Level.other : Level → Level
  | .low => .high
  | .high => .low

/-- The result of the transport's bring-up hook (R9, R138). -/
inductive UpResult where
  | success
  | failure
deriving DecidableEq, Repr, Inhabited

/-- A wire frame: one byte and whether it goes out as a command or as data (R76). -/
inductive Frame where
  | cmd (b : Byte)
  | dat (b : Byte)
deriving DecidableEq, Repr

end Sys2Proof
end

