-- ==== Sys2Proof/Config.lean ====
section
/-! DEFINITION. The configuration of spec/00_scope.md R7, its two named instances REFCFG and MINICFG, and the free values
of the model: opaque constants that nothing can evaluate (logs 1 to 4 and 6). -/

namespace Sys2Proof

/-- A run of `size` admitted byte addresses from `base` on: `MEM_ADMIT` is a union of them (R7, R50; log 12). -/
structure Region where
  base : Nat
  size : Nat
deriving DecidableEq, Repr

/-- The two readings of "high-byte-first" for the high-direction Y window (R141, D16). -/
inductive YWindowReading where
  | highEndFirst
  | msbFirst
deriving DecidableEq, Repr

/-- The parameters of R7, one field each, in the table's order; `WB` and `N` are derived (Machine/Operands.lean) and
`COORD_BITS` is the fixed width 32 of `Word`. `busyMaxPolls = none` is `UNBOUNDED`. -/
structure Config where
  /-- `W`, the native width in pixels. -/
  width : Nat
  /-- `H`, the native height in pixels. -/
  height : Nat
  /-- `ADDR_BITS`. -/
  addrBits : Nat
  /-- `MEM_ADMIT`. -/
  memAdmit : List Region
  /-- `DC_CMD_LEVEL`. -/
  dcCmdLevel : Level
  /-- `BUSY_ACTIVE_LEVEL`. -/
  busyActiveLevel : Level
  /-- `BUSY_MAX_POLLS`; `none` is `UNBOUNDED`. -/
  busyMaxPolls : Option Nat
  /-- `BUSY_POLL_MS`. -/
  busyPollMs : Nat
  /-- `T_RST_HIGH1`. -/
  tRstHigh1 : Nat
  /-- `T_RST_LOW`. -/
  tRstLow : Nat
  /-- `T_RST_HIGH2`. -/
  tRstHigh2 : Nat
  /-- `DOC_PAYLOAD`. -/
  docPayload : List Byte
  /-- `DEM_HIGH`. -/
  demHigh : Byte
  /-- `DEM_LOW`. -/
  demLow : Byte
  /-- `BORDER_PAYLOAD`. -/
  borderPayload : List Byte
  /-- `TEMPSEL_SEQ`. -/
  tempselSeq : List Frame
  /-- `DS_PAYLOAD`. -/
  dsPayload : Byte
  /-- `Y_WINDOW_READING`. -/
  yWindowReading : YWindowReading
deriving DecidableEq, Repr

/-- FREE VALUE (log 6): the level of the n-th busy sample taken past the answers State lists (R9, R132, I4). -/
opaque Config.freeBusy : Nat → Level

/-- FREE VALUE (log 6): the bring-up result drawn past the answers State lists (R9, R138, I6). -/
opaque Config.freeUp : Nat → UpResult

/-- FREE VALUE (log 3): `BUSY_POLL_MS`, for which R7 gives no reference value. -/
opaque Config.openBusyPollMs : Nat

/-- FREE VALUE (log 3): `T_RST_HIGH1`, for which R7 gives no reference value. -/
opaque Config.openTRstHigh1 : Nat

/-- FREE VALUE (log 3): `T_RST_LOW`, for which R7 gives no reference value. -/
opaque Config.openTRstLow : Nat

/-- FREE VALUE (log 3): `T_RST_HIGH2`, for which R7 gives no reference value. -/
opaque Config.openTRstHigh2 : Nat

/-- `REFCFG` (R7). The payload bytes, `TEMPSEL_SEQ` and the polarities are the spec's reference values, PRESUMED from
general knowledge there (log 4); the four durations are free (log 3); `BUSY_MAX_POLLS = 2` is a DESIGN CHOICE (log 2). -/
def Config.ref : Config where
  width := 200
  height := 200
  addrBits := 32
  memAdmit := [{ base := 0, size := 4294967296 }]
  dcCmdLevel := .low
  busyActiveLevel := .high
  busyMaxPolls := some 2
  busyPollMs := Config.openBusyPollMs
  tRstHigh1 := Config.openTRstHigh1
  tRstLow := Config.openTRstLow
  tRstHigh2 := Config.openTRstHigh2
  docPayload := [0xC7, 0x00, 0x01]
  demHigh := 0x01
  demLow := 0x03
  borderPayload := [0x01]
  tempselSeq := [.cmd 0x18, .dat 0x80, .cmd 0x22, .dat 0xB1, .cmd 0x20]
  dsPayload := 0x01
  yWindowReading := .highEndFirst

/-- `MINICFG` (R7): REFCFG with the small geometry, its `DOC_PAYLOAD`, and `BUSY_MAX_POLLS = 2`. -/
def Config.mini : Config :=
  { Config.ref with
    width := 16
    height := 4
    docPayload := [0x03, 0x00, 0x01]
    busyMaxPolls := some 2 }

end Sys2Proof
end

