-- ==== Sys2Proof/Syntax.lean ====
section
/-! DEFINITION. The two vocabularies of spec/30_encoding.md R70 as ONE inductive: the twelve host requests of R74 and the
fourteen wire frames of R77 and R203, one constructor per row of spec/opcode_table.json. -/

namespace Sys2Proof

/-- The `initialize` variant (R71 `MODE`, R73 `op.mode`). -/
inductive InitMode where
  | highDir
  | lowDir
deriving DecidableEq, Repr

/-- A buffer reference: `none` is `NULL`, which is no address (R51). -/
abbrev Buf := Option Word

/-- The instructions. Coordinates and sizes are the words of R71; R73's signed reading is Machine/Operands.lean's. -/
inductive Instr where
  /-- INIT, `initialize` (R100). -/
  | init (mode : InitMode)
  /-- WRFULL, `writeFull` (R101). -/
  | wrfull (buf : Buf)
  /-- WRBASE, `writeFullNoRefresh` (R102). -/
  | wrbase (buf : Buf)
  /-- WRWHITE, `writeWhiteBase` (R103). -/
  | wrwhite
  /-- WRPART, `writePartial` (R104). -/
  | wrpart (buf : Buf)
  /-- BLIT, `blitRegion` (R105). -/
  | blit (buf : Buf) (x y wd ht : Word)
  /-- SLEEP, `sleep` (R108). -/
  | sleep
  /-- FBCLEAR, `clear` (R160); `col` is true for colored. -/
  | fbclear (buf : Buf) (col : Bool)
  /-- FBSETPIX, `setPixelRotated` (R162). -/
  | fbsetpix (buf : Buf) (x y : Word) (col : Bool)
  /-- FBSETABS, `setPixelAbsolute` (R161). -/
  | fbsetabs (buf : Buf) (x y : Word) (col : Bool)
  /-- SETROT (R165). -/
  | setrot (rot : BitVec 2)
  /-- RDDIM (R166). -/
  | rddim
  /-- Command frame 0x01 (R190). -/
  | cmdDriverOutputControl
  /-- Command frame 0x10 (R191). -/
  | cmdDeepSleep
  /-- Command frame 0x11 (R192). -/
  | cmdDataEntryMode
  /-- Command frame 0x12 (R193). -/
  | cmdSoftwareReset
  /-- Command frame 0x20 (R194). -/
  | cmdMasterActivation
  /-- Command frame 0x22 (R195). -/
  | cmdDisplayUpdateControl2
  /-- Command frame 0x24 (R196). -/
  | cmdWriteRamBank1
  /-- Command frame 0x26 (R197). -/
  | cmdWriteRamBank2
  /-- Command frame 0x3C (R198). -/
  | cmdBorderWaveformControl
  /-- Command frame 0x44 (R199). -/
  | cmdRamXWindow
  /-- Command frame 0x45 (R200). -/
  | cmdRamYWindow
  /-- Command frame 0x4E (R201). -/
  | cmdRamXCounter
  /-- Command frame 0x4F (R202). -/
  | cmdRamYCounter
  /-- Data frame (R203). -/
  | data (b : Byte)
deriving DecidableEq, Repr

/-- A request as the host presents it: six 32-bit words (R71). -/
structure Request where
  w0 : Word
  w1 : Word
  w2 : Word
  w3 : Word
  w4 : Word
  w5 : Word
deriving DecidableEq, Repr

/-- What an instruction is encoded as: six words on the request port, or a 9-bit wire frame (R71, R76). -/
inductive Encoded where
  | request (r : Request)
  | frame (code : BitVec 9)
deriving DecidableEq, Repr

/-- The twelve opcodes of R74. -/
inductive Opcode where
  | init | wrfull | wrbase | wrwhite | wrpart | blit | sleep
  | fbclear | fbsetpix | fbsetabs | setrot | rddim
deriving DecidableEq, Repr

/-- The formats of R72. -/
inductive Format where
  | fmtN | fmtM | fmtB | fmtBL | fmtBC | fmtP | fmtR
deriving DecidableEq, Repr

/-- The host requests among the instructions (R74); the others are wire frames (R77). -/
def Instr.isRequest : Instr → Bool
  | .init _ => true
  | .wrfull _ => true
  | .wrbase _ => true
  | .wrwhite => true
  | .wrpart _ => true
  | .blit _ _ _ _ _ => true
  | .sleep => true
  | .fbclear _ _ => true
  | .fbsetpix _ _ _ _ => true
  | .fbsetabs _ _ _ _ => true
  | .setrot _ => true
  | .rddim => true
  | .cmdDriverOutputControl => false
  | .cmdDeepSleep => false
  | .cmdDataEntryMode => false
  | .cmdSoftwareReset => false
  | .cmdMasterActivation => false
  | .cmdDisplayUpdateControl2 => false
  | .cmdWriteRamBank1 => false
  | .cmdWriteRamBank2 => false
  | .cmdBorderWaveformControl => false
  | .cmdRamXWindow => false
  | .cmdRamYWindow => false
  | .cmdRamXCounter => false
  | .cmdRamYCounter => false
  | .data _ => false

end Sys2Proof
end

