-- ==== Sys2Proof/WellFormed.lean ====
section
/-! DEFINITION. Which instructions a configuration can express: the one check that is left once operands are words, that a
buffer address fits `ADDR_BITS` (spec/30_encoding.md R71, R75). `configOk` (Decode.lean) checks the configuration. -/

namespace Sys2Proof

/-- A buffer reference a request can carry: `NULL`, or an address whose bits [31:ADDR_BITS] are 0 (R71). -/
def bufFits (c : Config) : Buf → Bool
  | none => true
  | some a => decide (a.toNat < 2 ^ c.addrBits)

/-- The instructions that have an encoding under the configuration (R71). -/
def Instr.wf (c : Config) : Instr → Bool
  | .init _ => true
  | .wrfull buf => bufFits c buf
  | .wrbase buf => bufFits c buf
  | .wrwhite => true
  | .wrpart buf => bufFits c buf
  | .blit buf _ _ _ _ => bufFits c buf
  | .sleep => true
  | .fbclear buf _ => bufFits c buf
  | .fbsetpix buf _ _ _ => bufFits c buf
  | .fbsetabs buf _ _ _ => bufFits c buf
  | .setrot _ => true
  | .rddim => true
  | .cmdDriverOutputControl => true
  | .cmdDeepSleep => true
  | .cmdDataEntryMode => true
  | .cmdSoftwareReset => true
  | .cmdMasterActivation => true
  | .cmdDisplayUpdateControl2 => true
  | .cmdWriteRamBank1 => true
  | .cmdWriteRamBank2 => true
  | .cmdBorderWaveformControl => true
  | .cmdRamXWindow => true
  | .cmdRamYWindow => true
  | .cmdRamXCounter => true
  | .cmdRamYCounter => true
  | .data _ => true

end Sys2Proof
end

