-- ==== Sys2Proof/Decode.lean ====
section
/-! DEFINITION. Decoding of host requests (spec/30_encoding.md R71 to R75) and of wire frames (R76, R77), total and
rejecting by name, then the encoder written from the same tables, then the reading of the opcode table's numbering. -/

namespace Sys2Proof

/-- Why words have no meaning: the six reasons of R224, and, for a wire frame, a command byte outside R77 (R78). -/
inductive DecodeError where
  | badConfiguration
  | unassignedOpcode
  | reservedBits
  | unusedFieldNonzero
  | nullWithAddress
  | addressTooWide
  | unlistedCommand
deriving DecidableEq, Repr

/-- The constraints of R7 (D5): a configuration that breaks one is refused, `BadConfiguration`. `MEM_ADMIT` is a subset of
`[0, 2^ADDR_BITS)` when each of its regions is, an empty region being one wherever its base lies (log 12). -/
def configOk (c : Config) : Bool :=
  decide (8 ≤ c.width) && decide (c.width ≤ 2048) && decide (c.width % 8 = 0) &&
  decide (1 ≤ c.height) && decide (c.height ≤ 65536) &&
  decide (1 ≤ c.addrBits) && decide (c.addrBits ≤ 32) &&
  c.memAdmit.all (fun r => decide (r.size = 0) || decide (r.base + r.size ≤ 2 ^ c.addrBits)) &&
  decide (c.busyMaxPolls ≠ some 0) &&
  decide (c.docPayload ≠ []) && decide (c.demHigh ≠ c.demLow) &&
  decide (c.borderPayload ≠ []) && decide (c.tempselSeq ≠ [])

/-- The opcode map of R74; every other value of `OPC` is unassigned (R75). -/
def opcodeOf (b : Byte) : Option Opcode :=
  match b.toNat with
  | 0x01 => some .init
  | 0x02 => some .wrfull
  | 0x03 => some .wrbase
  | 0x04 => some .wrwhite
  | 0x05 => some .wrpart
  | 0x06 => some .blit
  | 0x07 => some .sleep
  | 0x10 => some .fbclear
  | 0x11 => some .fbsetpix
  | 0x12 => some .fbsetabs
  | 0x13 => some .setrot
  | 0x14 => some .rddim
  | _ => none

/-- The format of each opcode (R74). -/
def formatOf : Opcode → Format
  | .init => .fmtM
  | .wrfull => .fmtB
  | .wrbase => .fmtB
  | .wrwhite => .fmtN
  | .wrpart => .fmtB
  | .blit => .fmtBL
  | .sleep => .fmtN
  | .fbclear => .fmtBC
  | .fbsetpix => .fmtP
  | .fbsetabs => .fmtP
  | .setrot => .fmtR
  | .rddim => .fmtN

/-- `OPC`, w0[7:0] (R71). -/
def fieldOpc (r : Request) : Byte := r.w0.extractLsb' 0 8

/-- `BV`, w0[8] (R71). -/
def fieldBv (r : Request) : Bool := r.w0.getLsbD 8

/-- `COL`, w0[9] (R71). -/
def fieldCol (r : Request) : Bool := r.w0.getLsbD 9

/-- `MODE`, w0[10] (R71). -/
def fieldMode (r : Request) : Bool := r.w0.getLsbD 10

/-- `ROT`, w0[12:11] (R71). -/
def fieldRot (r : Request) : BitVec 2 := r.w0.extractLsb' 11 2

/-- The reserved bits w0[31:13] (R71). -/
def fieldReserved (r : Request) : BitVec 19 := r.w0.extractLsb' 13 19

/-- Whether a format uses `BV` and `BUF` (R72). -/
def usesBuf : Format → Bool
  | .fmtB => true
  | .fmtBL => true
  | .fmtBC => true
  | .fmtP => true
  | .fmtN => false
  | .fmtM => false
  | .fmtR => false

/-- Whether a format uses `COL` (R72). -/
def usesCol : Format → Bool
  | .fmtBC => true
  | .fmtP => true
  | .fmtN => false
  | .fmtM => false
  | .fmtB => false
  | .fmtBL => false
  | .fmtR => false

/-- Whether a format uses `X` and `Y` (R72). -/
def usesXY : Format → Bool
  | .fmtBL => true
  | .fmtP => true
  | .fmtN => false
  | .fmtM => false
  | .fmtB => false
  | .fmtBC => false
  | .fmtR => false

/-- R75's third check: some field of R71 that the format does not use is not 0. `MODE` belongs to `FMT_M` alone, `ROT` to
`FMT_R` alone, `WD` and `HT` to `FMT_BL` alone (R72). -/
def unusedNonzero (f : Format) (r : Request) : Bool :=
  (!usesBuf f && (fieldBv r || decide (r.w1 ≠ 0))) ||
  (!usesCol f && fieldCol r) ||
  (decide (f ≠ .fmtM) && fieldMode r) ||
  (decide (f ≠ .fmtR) && decide (fieldRot r ≠ 0)) ||
  (!usesXY f && (decide (r.w2 ≠ 0) || decide (r.w3 ≠ 0))) ||
  (decide (f ≠ .fmtBL) && (decide (r.w4 ≠ 0) || decide (r.w5 ≠ 0)))

/-- `op.buf` (R73). -/
def operandBuf (r : Request) : Buf := if fieldBv r then some r.w1 else none

/-- `op.mode` (R73). -/
def operandMode (r : Request) : InitMode := if fieldMode r then .highDir else .lowDir

/-- Operand assembly (R73): the instruction of a well-formed request. -/
def assemble (op : Opcode) (r : Request) : Instr :=
  match op with
  | .init => .init (operandMode r)
  | .wrfull => .wrfull (operandBuf r)
  | .wrbase => .wrbase (operandBuf r)
  | .wrwhite => .wrwhite
  | .wrpart => .wrpart (operandBuf r)
  | .blit => .blit (operandBuf r) r.w2 r.w3 r.w4 r.w5
  | .sleep => .sleep
  | .fbclear => .fbclear (operandBuf r) (fieldCol r)
  | .fbsetpix => .fbsetpix (operandBuf r) r.w2 r.w3 (fieldCol r)
  | .fbsetabs => .fbsetabs (operandBuf r) r.w2 r.w3 (fieldCol r)
  | .setrot => .setrot (fieldRot r)
  | .rddim => .rddim

/-- R75's checks after the opcode, in R75's order. -/
def decodeFields (c : Config) (op : Opcode) (r : Request) : Except DecodeError Instr :=
  if fieldReserved r ≠ 0 then .error .reservedBits
  else if unusedNonzero (formatOf op) r = true then .error .unusedFieldNonzero
  else if usesBuf (formatOf op) = true ∧ fieldBv r = false ∧ r.w1 ≠ 0 then .error .nullWithAddress
  else if usesBuf (formatOf op) = true ∧ fieldBv r = true ∧ 2 ^ c.addrBits ≤ r.w1.toNat then
    .error .addressTooWide
  else .ok (assemble op r)

/-- Decoding of a request (R75). The configuration is checked first: R224 refuses ANY request under a broken one; where
the words are malformed too, the order is not stated and is not observable (log 13). -/
def decodeRequest (c : Config) (r : Request) : Except DecodeError Instr :=
  if configOk c = false then .error .badConfiguration
  else
    match opcodeOf (fieldOpc r) with
    | none => .error .unassignedOpcode
    | some op => decodeFields c op r

/-- The 9-bit value of a frame, `R << 8 | b` (R76). -/
def frameCode : Frame → BitVec 9
  | .cmd b => (0 : BitVec 1) ++ b
  | .dat b => (1 : BitVec 1) ++ b

/-- The frame of a 9-bit value (R76). -/
def frameOfCode (v : BitVec 9) : Frame :=
  if v.getLsbD 8 then .dat (v.extractLsb' 0 8) else .cmd (v.extractLsb' 0 8)

/-- The wire command map of R77; no other command byte is an instruction (R78). -/
def decodeCommand (b : Byte) : Except DecodeError Instr :=
  match b.toNat with
  | 0x01 => .ok .cmdDriverOutputControl
  | 0x10 => .ok .cmdDeepSleep
  | 0x11 => .ok .cmdDataEntryMode
  | 0x12 => .ok .cmdSoftwareReset
  | 0x20 => .ok .cmdMasterActivation
  | 0x22 => .ok .cmdDisplayUpdateControl2
  | 0x24 => .ok .cmdWriteRamBank1
  | 0x26 => .ok .cmdWriteRamBank2
  | 0x3C => .ok .cmdBorderWaveformControl
  | 0x44 => .ok .cmdRamXWindow
  | 0x45 => .ok .cmdRamYWindow
  | 0x4E => .ok .cmdRamXCounter
  | 0x4F => .ok .cmdRamYCounter
  | _ => .error .unlistedCommand

/-- Decoding of a wire frame (R76, R77, R203). -/
def decodeFrame : Frame → Except DecodeError Instr
  | .cmd b => decodeCommand b
  | .dat b => .ok (.data b)

/-- The decoder over both vocabularies (R70). -/
def decode (c : Config) : Encoded → Except DecodeError Instr
  | .request r => decodeRequest c r
  | .frame code => decodeFrame (frameOfCode code)

/-- w0 from its fields (R71): reserved [31:13], `ROT` [12:11], `MODE` [10], `COL` [9], `BV` [8], `OPC` [7:0]. -/
def packW0 (opc : Byte) (bv col mode : Bool) (rot : BitVec 2) : Word :=
  opc.setWidth 32 ||| (BitVec.ofBool bv).setWidth 32 <<< 8 ||| (BitVec.ofBool col).setWidth 32 <<< 9 |||
    (BitVec.ofBool mode).setWidth 32 <<< 10 ||| rot.setWidth 32 <<< 11

/-- w1 from a buffer reference (R71, R75: `NULL` carries address 0). -/
def packBuf : Buf → Word
  | none => 0
  | some a => a

/-- A request of the formats `FMT_N`, `FMT_B` and `FMT_BC` (R72). -/
def packB (opc : Byte) (buf : Buf) (col : Bool) : Encoded :=
  .request ⟨packW0 opc buf.isSome col false 0, packBuf buf, 0, 0, 0, 0⟩

/-- A request of the format `FMT_P` (R72). -/
def packP (opc : Byte) (buf : Buf) (x y : Word) (col : Bool) : Encoded :=
  .request ⟨packW0 opc buf.isSome col false 0, packBuf buf, x, y, 0, 0⟩

/-- The encoder: the words of an instruction, from the tables of R71, R72, R74, R76 and R77. -/
def encode : Instr → Encoded
  | .init mode => .request ⟨packW0 0x01 false false (decide (mode = .highDir)) 0, 0, 0, 0, 0, 0⟩
  | .wrfull buf => packB 0x02 buf false
  | .wrbase buf => packB 0x03 buf false
  | .wrwhite => packB 0x04 none false
  | .wrpart buf => packB 0x05 buf false
  | .blit buf x y wd ht => .request ⟨packW0 0x06 buf.isSome false false 0, packBuf buf, x, y, wd, ht⟩
  | .sleep => packB 0x07 none false
  | .fbclear buf col => packB 0x10 buf col
  | .fbsetpix buf x y col => packP 0x11 buf x y col
  | .fbsetabs buf x y col => packP 0x12 buf x y col
  | .setrot rot => .request ⟨packW0 0x13 false false false rot, 0, 0, 0, 0, 0⟩
  | .rddim => packB 0x14 none false
  | .cmdDriverOutputControl => .frame (frameCode (.cmd 0x01))
  | .cmdDeepSleep => .frame (frameCode (.cmd 0x10))
  | .cmdDataEntryMode => .frame (frameCode (.cmd 0x11))
  | .cmdSoftwareReset => .frame (frameCode (.cmd 0x12))
  | .cmdMasterActivation => .frame (frameCode (.cmd 0x20))
  | .cmdDisplayUpdateControl2 => .frame (frameCode (.cmd 0x22))
  | .cmdWriteRamBank1 => .frame (frameCode (.cmd 0x24))
  | .cmdWriteRamBank2 => .frame (frameCode (.cmd 0x26))
  | .cmdBorderWaveformControl => .frame (frameCode (.cmd 0x3C))
  | .cmdRamXWindow => .frame (frameCode (.cmd 0x44))
  | .cmdRamYWindow => .frame (frameCode (.cmd 0x45))
  | .cmdRamXCounter => .frame (frameCode (.cmd 0x4E))
  | .cmdRamYCounter => .frame (frameCode (.cmd 0x4F))
  | .data b => .frame (frameCode (.dat b))

/-- The six words of a request numbered as the opcode table numbers bits: bit 0 is w0[0], w1 begins at bit 32 (R71). -/
def requestOfNat (w : Nat) : Request where
  w0 := BitVec.ofNat 32 w
  w1 := BitVec.ofNat 32 (w / 2 ^ 32)
  w2 := BitVec.ofNat 32 (w / 2 ^ 64)
  w3 := BitVec.ofNat 32 (w / 2 ^ 96)
  w4 := BitVec.ofNat 32 (w / 2 ^ 128)
  w5 := BitVec.ofNat 32 (w / 2 ^ 160)

/-- Which space a table row of `nbits` bits is in: the frame rows have 9 bits, so two bytes; a request row has 8 bits, and
a whole request 192 (log 15). The padding above a frame's nine bits is no part of it. -/
def tableWord (nbits w : Nat) : Encoded :=
  if 8 < nbits ∧ nbits ≤ 16 then .frame (BitVec.ofNat 9 w) else .request (requestOfNat w)

/-- The instruction the decoder reads from an opcode table word, under the configuration of the reset state. -/
def decodeTableWord (nbits w : Nat) : Option Instr :=
  match decode Config.ref (tableWord nbits w) with
  | .ok i => some i
  | .error _ => none

end Sys2Proof
end

