-- ==== Sys2Proof/Machine/State.lean ====
section
/-! DEFINITION. The machine's state (spec/10_state.md, R20 to R34), its events (R9), its outcomes other than a next state,
the reset state (R34, R250), and one named update per field. -/

namespace Sys2Proof.Machine

open Sys2Proof

/-- The output pins (R9, R33). -/
inductive OutPin where
  | rst
  | dc
deriving DecidableEq, Repr

/-- The environment events of R9. The byte `transferByte` returns is discarded (R130, log 19). -/
inductive Event where
  | setPin (p : OutPin) (l : Level)
  | xfer (b : Byte)
  | sample (l : Level)
  | delay (ms : Nat)
  | bringUp (r : UpResult)
deriving DecidableEq, Repr

/-- One thing the PPC performs, in the order it performs it (R59): an event, or a one-byte host-memory access (R50). -/
inductive Act where
  | ev (e : Event)
  | rd (a : Nat) (v : Byte)
  | wr (a : Nat) (v : Byte)
deriving DecidableEq, Repr

/-- A response, the two words of R84. -/
structure Response where
  r0 : Word
  r1 : Word
deriving DecidableEq, Repr

/-- `LIFE` (R26). -/
inductive Life where
  | uninit
  | initialized
  | sleeping
deriving DecidableEq, Repr

/-- One operation of a request's sequence (R31): what the sequencer still has to perform is a list of these. -/
inductive SeqOp where
  /-- SEND_CMD or SEND_DATA of a frame (R130, R131, R139). -/
  | frame (f : Frame)
  /-- WAIT_IDLE with its poll counter `i` (R132). -/
  | wait (i : Nat)
  /-- Drive the reset pin (R133, R108). -/
  | rst (l : Level)
  /-- A wait of the reset pulse (R133). -/
  | delay (ms : Nat)
  /-- Read the byte at `a`, then send it as data (R140, R107). -/
  | sendMem (a : Nat)
  /-- Write a byte (R160). -/
  | store (a : Nat) (v : Byte)
  /-- Read the byte at `a`, write it back with the bits of `m` cleared (colored) or set (R164). -/
  | plot (a : Nat) (m : Byte) (col : Bool)
  /-- Set `LIFE` (R26). -/
  | life (l : Life)
  /-- Deliver the response (R84, R261). -/
  | respond (r : Response)
deriving DecidableEq, Repr

/-- Host memory: (address, byte) pairs in one canonical form (`Memory.wf`, Machine/Memory.lean). -/
abbrev Memory := List Host.Cell

/-- Everything the machine holds. `LOGW` and `LOGH` are derived from `rot` (R24; Machine/Operands.lean). -/
structure State where
  /-- The configuration; no request writes it (R7, R25). -/
  cfg : Config
  /-- `ROT` (R23). -/
  rot : BitVec 2
  /-- `RST_L`; `none` is `NONE` (R29). -/
  rstL : Option Level
  /-- `DC_L`; `none` is `NONE` (R29). -/
  dcL : Option Level
  /-- `LIFE` (R26). -/
  life : Life
  /-- `MISUSE` (R27). -/
  misuse : Bool
  /-- `REFUSED` (R28). -/
  refused : Bool
  /-- Host memory (R50). -/
  mem : Memory
  /-- The requests the host has yet to present, the next one first (R71, R234; log 7). -/
  port : List Request
  /-- The latched request while one is in progress (R20, R31). -/
  latched : Option Request
  /-- What is left of the request in progress; empty between requests (R31). -/
  seq : List SeqOp
  /-- Everything performed since reset, oldest first: the trace (R9, R10) with the memory accesses at their place (R59). -/
  log : List Act
  /-- The responses returned since reset, oldest first (R84, R261). -/
  responses : List Response
  /-- MODEL's own: the environment's next answers to busy samples (R9, D33; log 6). -/
  busyAnswers : List Level
  /-- MODEL's own: the environment's next answers to the bring-up hook (R9, D33; log 6). -/
  upAnswers : List UpResult
  /-- MODEL's own: the number of free values drawn so far (log 6). -/
  drawn : Nat
deriving DecidableEq, Repr

/-- How a step can have no next state. -/
inductive Fault where
  /-- Raised by the step of a machine that is stuck (R50, R225): the next operation of its request accesses host address
  `a`, which is not admitted. Safe: the state before that step holds every event and write performed. -/
  | unadmittedAccess (a : Nat)
deriving DecidableEq, Repr

/-- How the model can give an instruction no meaning. The spec's own refusals (R75, R224) are next states with `REFUSED`
set, so they are not here. -/
inductive Refusal where
  /-- Raised by exec for an instruction without a meaning; no arm raises it. Safe. -/
  | notModelled (mnemonic : String)
deriving DecidableEq, Repr

/-- The state after a PPC reset under a configuration (R34, R250). -/
def State.resetWith (c : Config) : State where
  cfg := c
  rot := 0
  rstL := none
  dcL := none
  life := .uninit
  misuse := false
  refused := false
  mem := []
  port := []
  latched := none
  seq := []
  log := []
  responses := []
  busyAnswers := []
  upAnswers := []
  drawn := 0

/-- The reset state of the reference configuration (log 1). -/
def State.reset : State := State.resetWith Config.ref

/-- `ROT <- v`. -/
def State.setRot (v : BitVec 2) (s : State) : State := { s with rot := v }

/-- `RST_L <- v`. -/
def State.setRst (v : Option Level) (s : State) : State := { s with rstL := v }

/-- `DC_L <- v`. -/
def State.setDc (v : Option Level) (s : State) : State := { s with dcL := v }

/-- `LIFE <- v`. -/
def State.setLife (v : Life) (s : State) : State := { s with life := v }

/-- `MISUSE <- v`. -/
def State.setMisuse (v : Bool) (s : State) : State := { s with misuse := v }

/-- `REFUSED <- v`. -/
def State.setRefused (v : Bool) (s : State) : State := { s with refused := v }

/-- Replaces host memory. -/
def State.setMem (v : Memory) (s : State) : State := { s with mem := v }

/-- Replaces the requests to come. -/
def State.setPort (v : List Request) (s : State) : State := { s with port := v }

/-- Replaces the latched request. -/
def State.setLatched (v : Option Request) (s : State) : State := { s with latched := v }

/-- Replaces what is left of the request in progress. -/
def State.setSeq (v : List SeqOp) (s : State) : State := { s with seq := v }

/-- Appends to the log, in order (R10 `Emit`, R59). -/
def State.addLog (v : List Act) (s : State) : State := { s with log := s.log ++ v }

/-- Returns a response (R84). -/
def State.addResponse (v : Response) (s : State) : State := { s with responses := s.responses ++ [v] }

/-- Replaces the busy answers to come. -/
def State.setBusyAnswers (v : List Level) (s : State) : State := { s with busyAnswers := v }

/-- Replaces the bring-up answers to come. -/
def State.setUpAnswers (v : List UpResult) (s : State) : State := { s with upAnswers := v }

/-- Replaces the count of free values drawn. -/
def State.setDrawn (v : Nat) (s : State) : State := { s with drawn := v }

end Sys2Proof.Machine
end

