-- ==== Sys2Proof/Machine/Memory.lean ====
section
/-! DEFINITION. Host memory (spec/20_memory.md R50): what an unlisted address reads as, reading and writing one byte, the
canonical form, and which accesses are admitted. -/

namespace Sys2Proof.Machine

open Sys2Proof

/-- What an address that nothing has written reads as. The spec leaves a buffer's first contents open (R34, I9): DESIGN
CHOICE 0x00, unsafe (log 10). Every statement over all states holds for all contents. -/
def unlistedByte : Byte := 0x00

/-- `MemRead(a, 1)` of an admitted address (R10, R50). -/
def readByte : Memory → Nat → Byte
  | [], _ => unlistedByte
  | (b, w) :: m, a => if a = b then w else readByte m a

/-- `MemWrite(a, 1, v)` of an admitted address (R10, R50), keeping the canonical form. -/
def writeByte : Memory → Nat → Byte → Memory
  | [], a, v => if v = unlistedByte then [] else [(a, v)]
  | (b, w) :: m, a, v =>
    if a < b then (if v = unlistedByte then (b, w) :: m else (a, v) :: (b, w) :: m)
    else if a = b then (if v = unlistedByte then m else (a, v) :: m)
    else (b, w) :: writeByte m a v

/-- The canonical form: addresses strictly rising, and no entry equal to what an unlisted address reads as. -/
def Memory.wf : Memory → Bool
  | [] => true
  | (a, v) :: m => decide (v ≠ unlistedByte) && m.all (fun c => decide (a < c.1)) && Memory.wf m

/-- The access to `a` is admitted: below `2^ADDR_BITS` and in `MEM_ADMIT` (R50). -/
def admits (c : Config) (a : Nat) : Bool :=
  decide (a < 2 ^ c.addrBits) &&
  c.memAdmit.any (fun r => decide (r.base ≤ a) && decide (a < r.base + r.size))

end Sys2Proof.Machine
end

