-- ==== Sys2Proof/Machine/Operands.lean ====
section
/-! DEFINITION. Operand forms and pure functions: signed operands (spec/30_encoding.md R73), the byte functions (R8), the
derived geometry (R7, R24), the framebuffer address of a pixel (R52), MAP (R163) and BLIT_GEOM (R106). -/

namespace Sys2Proof.Machine

open Sys2Proof

/-- `op.x`, `op.y`, `op.wd`, `op.ht`: `sext_32` of the operand word (R73, D4). -/
def coord (w : Word) : Int := w.toInt

/-- The base address of a buffer reference that is not `NULL`: `zext_32` (R73). -/
def bufAddr (w : Word) : Nat := w.toNat

/-- `xb(v) = (v div 8) mod 256` (R8). -/
def xb (v : Int) : Byte := BitVec.ofInt 8 (v / 8)

/-- `lo8(v) = v mod 256` (R8). -/
def lo8 (v : Int) : Byte := BitVec.ofInt 8 v

/-- `hi8(v) = (v div 256) mod 256` (R8). -/
def hi8 (v : Int) : Byte := BitVec.ofInt 8 (v / 256)

/-- `WB`, bytes per framebuffer row (R7). -/
def rowBytes (c : Config) : Nat := c.width / 8

/-- `N`, the framebuffer length in bytes (R7). -/
def bufLen (c : Config) : Nat := rowBytes c * c.height

/-- Whether the orientation swaps width and height: 90° and 270° (R23). -/
def rotSwaps (rot : BitVec 2) : Bool := rot == 1 || rot == 3

/-- `LOGW` (R23, R24). -/
def logW (s : State) : Nat := if rotSwaps s.rot then s.cfg.height else s.cfg.width

/-- `LOGH` (R23, R24). -/
def logH (s : State) : Nat := if rotSwaps s.rot then s.cfg.width else s.cfg.height

/-- The native bounds `0 <= x < W`, `0 <= y < H` (R52, R164). -/
def inNative (c : Config) (x y : Int) : Bool :=
  decide (0 ≤ x) && decide (x < c.width) && decide (0 ≤ y) && decide (y < c.height)

/-- The logical bounds `0 <= x < LOGW`, `0 <= y < LOGH` (R162). -/
def inLogical (s : State) (x y : Int) : Bool :=
  decide (0 ≤ x) && decide (x < logW s) && decide (0 ≤ y) && decide (y < logH s)

/-- The byte index of a native pixel, `(x + y*W) div 8` (R52, R164). -/
def pixelIndex (c : Config) (x y : Int) : Nat := ((x + y * c.width) / 8).toNat

/-- The mask of a native pixel, `0x80 >> (x mod 8)`: most significant bit first (R52, R164). -/
def pixelMask (x : Int) : Byte := (0x80 : Byte) >>> (x % 8).toNat

/-- A byte with the pixels of `m` colored (cleared) or white (set) (R53, R164). -/
def plotByte (v m : Byte) (col : Bool) : Byte := if col then v &&& ~~~m else v ||| m

/-- The byte FBCLEAR fills with: 0x00 colored, 0xFF white (R160, R53). -/
def fillByte (col : Bool) : Byte := if col then 0x00 else 0xFF

/-- `MAP(rot, x, y)`, the rotation mapping, over native W and H (R163). -/
def mapPoint (c : Config) (rot : BitVec 2) (x y : Int) : Int × Int :=
  if rot = 0 then (x, y)
  else if rot = 1 then (c.width - y, x)
  else if rot = 2 then (c.width - x, c.height - y)
  else (y, c.height - x)

/-- The results of `BLIT_GEOM` (R106). -/
structure BlitGeom where
  x0 : Int
  w0 : Int
  xe : Int
  ye : Int
  stride : Nat
  rows : Nat
  cols : Nat
deriving DecidableEq, Repr

/-- Rounding down to a multiple of 8: only the three low bits are cleared (R106, D40). -/
def round8 (v : Int) : Int := v - v % 8

/-- `BLIT_GEOM(x, y, wd, ht)` for arguments that are not negative (R106). -/
def blitGeom (c : Config) (x y wd ht : Int) : BlitGeom where
  x0 := round8 x
  w0 := round8 wd
  xe := min (round8 x + round8 wd - 1) (c.width - 1)
  ye := min (y + ht - 1) (c.height - 1)
  stride := (round8 wd / 8).toNat
  rows := (max 0 (min (y + ht - 1) (c.height - 1) - y + 1)).toNat
  cols := (max 0 ((min (round8 x + round8 wd - 1) (c.width - 1) - round8 x + 1) / 8)).toNat

/-- The argument check of BLIT, its buffer aside (R105, R222). -/
def blitArgsOk (x y wd ht : Int) : Bool :=
  decide (0 ≤ x) && decide (0 ≤ y) && decide (0 ≤ wd) && decide (0 ≤ ht)

end Sys2Proof.Machine
end

