-- ==== Sys2Proof/Machine/Flags.lean ====
section
/-! DEFINITION. The PPC has no condition codes (spec/10_state.md R22); its two sticky marks are MISUSE (R27) and REFUSED
(R28). Raising a refusal (R224) is the one thing this machine has in an exception's place (R229, R230). -/

namespace Sys2Proof.Machine

open Sys2Proof

/-- The start of a panel-writing request: `MISUSE <- 1` when `LIFE != INITIALIZED`, before its first event (R27). -/
def markMisuse (s : State) : State :=
  s.setMisuse (s.misuse || decide (s.life ≠ .initialized))

/-- `raise Refused(reason)`: `REFUSED <- 1`, no event, no memory access, no response (R28, R224). -/
def refuse (s : State) : State := s.setRefused true

end Sys2Proof.Machine
end

