-- ==== Sys2Proof/Machine/Ops.lean ====
section
/-! DEFINITION. What the sequencer does with each operation of a request (spec/42_protocol_primitives.md): emitting frames,
drawing the environment's answers, the wait, memory accesses, and running a sequence until it ends or cannot go on. -/

namespace Sys2Proof.Machine

open Sys2Proof

/-- `Emit(e)` (R10). -/
def emit (e : Event) (s : State) : State := s.addLog [.ev e]

/-- The level of the data/command pin for a frame (R76, R130, R131). -/
def frameLevel (c : Config) : Frame → Level
  | .cmd _ => c.dcCmdLevel
  | .dat _ => c.dcCmdLevel.other

/-- The byte of a frame (R76). -/
def frameByte : Frame → Byte
  | .cmd b => b
  | .dat b => b

/-- SEND_CMD and SEND_DATA: the pin is driven on every call, then the byte is sent (R130, R131, D10). -/
def sendFrame (f : Frame) (s : State) : State :=
  (emit (.xfer (frameByte f)) (emit (.setPin .dc (frameLevel s.cfg f)) s)).setDc (some (frameLevel s.cfg f))

/-- SEND_CMD(b) (R130). -/
def sendCmd (b : Byte) (s : State) : State := sendFrame (.cmd b) s

/-- SEND_DATA(b) (R131). -/
def sendData (b : Byte) (s : State) : State := sendFrame (.dat b) s

/-- The level the next busy sample reads: the environment's next answer, or a free value (R9, R132; log 6). -/
def busyLevel (s : State) : Level :=
  match s.busyAnswers with
  | [] => Config.freeBusy s.drawn
  | l :: _ => l

/-- Consumes the answer to one busy sample. -/
def takeBusy (s : State) : State :=
  (s.setBusyAnswers s.busyAnswers.tail).setDrawn (if s.busyAnswers = [] then s.drawn + 1 else s.drawn)

/-- `l <- Draw(); Emit(Sample(BUSY) = l)` (R132). -/
def sampleBusy (s : State) : State := emit (.sample (busyLevel s)) (takeBusy s)

/-- A busy sample and the delay after it (R132). -/
def busyPoll (s : State) : State := emit (.delay s.cfg.busyPollMs) (sampleBusy s)

/-- The next sample reads busy (R132). -/
def nextIsBusy (s : State) : Bool := busyLevel s == s.cfg.busyActiveLevel

/-- WAIT_IDLE with at most `n` more samples: it ends on an idle sample, or gives up silently (R132, R223). -/
def pollUpTo : Nat → State → State
  | 0, s => s
  | n + 1, s => if nextIsBusy s then pollUpTo n (busyPoll s) else sampleBusy s

/-- The result of the next bring-up: the environment's next answer, or a free value (R138; log 6). -/
def upResult (s : State) : UpResult :=
  match s.upAnswers with
  | [] => Config.freeUp s.drawn
  | r :: _ => r

/-- Consumes the answer to one bring-up. -/
def takeUp (s : State) : State :=
  (s.setUpAnswers s.upAnswers.tail).setDrawn (if s.upAnswers = [] then s.drawn + 1 else s.drawn)

/-- BRING_UP(): draws the result and emits its event (R138). -/
def bringUp (s : State) : State := emit (.bringUp (upResult s)) (takeUp s)

/-- `SetPin(RST, l)` with `RST_L <- l` (R133, R108). -/
def driveRst (l : Level) (s : State) : State := (emit (.setPin .rst l) s).setRst (some l)

/-- `MemRead(a, 1)` of an admitted address, then SEND_DATA of the byte read (R140, R59). -/
def sendFromMem (a : Nat) (s : State) : State :=
  sendData (readByte s.mem a) (s.addLog [.rd a (readByte s.mem a)])

/-- `MemWrite(a, 1, v)` of an admitted address (R50). -/
def storeByte (a : Nat) (v : Byte) (s : State) : State :=
  (s.setMem (writeByte s.mem a v)).addLog [.wr a v]

/-- PLOT's read and write of an admitted address, both always performed (R164, D23). -/
def plotAt (a : Nat) (m : Byte) (col : Bool) (s : State) : State :=
  storeByte a (plotByte (readByte s.mem a) m col) (s.addLog [.rd a (readByte s.mem a)])

/-- The address an operation accesses, if it accesses host memory. -/
def opAddr : SeqOp → Option Nat
  | .frame _ => none
  | .wait _ => none
  | .rst _ => none
  | .delay _ => none
  | .sendMem a => some a
  | .store a _ => some a
  | .plot a _ _ => some a
  | .life _ => none
  | .respond _ => none

/-- The address at which an operation is stuck: its access is not admitted (R50, R225). -/
def stuckAt (op : SeqOp) (s : State) : Option Nat :=
  match opAddr op with
  | none => none
  | some a => if admits s.cfg a then none else some a

/-- What comes of starting an operation: performed, or not to be passed yet, with the operation as it then stands. -/
inductive Fired where
  | done (s : State)
  | hold (op : SeqOp) (s : State)
deriving DecidableEq, Repr

/-- A memory operation is performed if its access is admitted; otherwise the request stands before it (R50, R225). -/
def fireAccess (op : SeqOp) (a : Nat) (s performed : State) : Fired :=
  if admits s.cfg a then .done performed else .hold op s

/-- WAIT_IDLE (R132). A bounded wait runs to its end. Under `UNBOUNDED` a busy sample leaves the wait standing with its
counter increased: the next step samples again, so a line that stays busy is an endless run (R226; log 5). -/
def fireWait (i : Nat) (s : State) : Fired :=
  match s.cfg.busyMaxPolls with
  | some n => .done (pollUpTo (n - i) s)
  | none => if nextIsBusy s then .hold (.wait (i + 1)) (busyPoll s) else .done (sampleBusy s)

/-- Starts one operation. -/
def fire (op : SeqOp) (s : State) : Fired :=
  match op with
  | .frame f => .done (sendFrame f s)
  | .wait i => fireWait i s
  | .rst l => .done (driveRst l s)
  | .delay ms => .done (emit (.delay ms) s)
  | .sendMem a => fireAccess op a s (sendFromMem a s)
  | .store a v => fireAccess op a s (storeByte a v s)
  | .plot a m col => fireAccess op a s (plotAt a m col s)
  | .life l => .done (s.setLife l)
  | .respond r => .done (s.addResponse r)

/-- The end of a request: none of its sequencer state survives it (R31, R261). -/
def endRequest (s : State) : State := (s.setSeq []).setLatched none

/-- Performs a sequence in order (R59) until it ends or an operation cannot be passed; what is left then stands in `seq`. -/
def runOps : List SeqOp → State → State
  | [], s => endRequest s
  | op :: rest, s =>
    match fire op s with
    | .done t => runOps rest t
    | .hold op' t => t.setSeq (op' :: rest)

/-- `DONE` and `OK`, both `(0, 0)` (R84). -/
def respDone : Response := ⟨0, 0⟩

/-- `FAIL`, `(1, 0)` (R84, R221). -/
def respFail : Response := ⟨1, 0⟩

/-- `noop`: response `DONE`, no event, no memory access (R10, R222). -/
def noop (s : State) : State := runOps [.respond respDone] s

end Sys2Proof.Machine
end

