-- ==== Sys2Proof/Machine/Framebuffer.lean ====
section
/-! DEFINITION. The meanings of the five framebuffer requests (spec/43_framebuffer.md R160 to R167). -/

namespace Sys2Proof.Machine

open Sys2Proof

/-- FBCLEAR's writes, in address order (R160, D22). -/
def clearOps (c : Config) (base : Nat) (v : Byte) : List SeqOp :=
  (List.range (bufLen c)).map (fun i => SeqOp.store (base + i) v)

/-- FBCLEAR (R160). -/
def execFbclear (buf : Buf) (col : Bool) (s : State) : Host.Outcome State Fault Refusal :=
  match buf with
  | none => .next (noop s)
  | some a => .next (runOps (clearOps s.cfg (bufAddr a) (fillByte col) ++ [.respond respDone]) s)

/-- PLOT(B, x, y, col): nothing outside the native bounds (R164). -/
def plotOps (c : Config) (base : Nat) (x y : Int) (col : Bool) : List SeqOp :=
  if inNative c x y then [.plot (base + pixelIndex c x y) (pixelMask x) col] else []

/-- FBSETABS with its operands read (R161). -/
def setAbsAt (base : Nat) (x y : Int) (col : Bool) (s : State) : State :=
  runOps (plotOps s.cfg base x y col ++ [.respond respDone]) s

/-- FBSETPIX with its operands read: the logical bounds, MAP, then PLOT with the native bounds (R162, R228). -/
def setPixAt (base : Nat) (x y : Int) (col : Bool) (s : State) : State :=
  if inLogical s x y then
    runOps (plotOps s.cfg base (mapPoint s.cfg s.rot x y).1 (mapPoint s.cfg s.rot x y).2 col ++
      [.respond respDone]) s
  else noop s

/-- FBSETABS (R161). -/
def execFbsetabs (buf : Buf) (x y : Word) (col : Bool) (s : State) : Host.Outcome State Fault Refusal :=
  match buf with
  | none => .next (noop s)
  | some a => .next (setAbsAt (bufAddr a) (coord x) (coord y) col s)

/-- FBSETPIX (R162). -/
def execFbsetpix (buf : Buf) (x y : Word) (col : Bool) (s : State) : Host.Outcome State Fault Refusal :=
  match buf with
  | none => .next (noop s)
  | some a => .next (setPixAt (bufAddr a) (coord x) (coord y) col s)

/-- SETROT (R165). -/
def execSetrot (rot : BitVec 2) (s : State) : Host.Outcome State Fault Refusal :=
  .next (runOps [.respond respDone] (s.setRot rot))

/-- The response of RDDIM, `(LOGW, LOGH)` (R84, R166); a legal configuration's values fit their words (log 22). -/
def dimResponse (s : State) : Response := ⟨BitVec.ofNat 32 (logW s), BitVec.ofNat 32 (logH s)⟩

/-- RDDIM (R166). -/
def execRddim (s : State) : Host.Outcome State Fault Refusal :=
  .next (runOps [.respond (dimResponse s)] s)

end Sys2Proof.Machine
end

