-- ==== Sys2Proof/Machine/Primitives.lean ====
section
/-! DEFINITION. The primitives of spec/42_protocol_primitives.md as the operations they stand for, in order; a request is a
list of these. -/

namespace Sys2Proof.Machine

open Sys2Proof

/-- SEND_CMD(b) as an operation (R130). -/
def cmdOp (b : Byte) : SeqOp := .frame (.cmd b)

/-- SEND_DATA(b) as an operation (R131). -/
def datOp (b : Byte) : SeqOp := .frame (.dat b)

/-- SEND_BYTES(list) (R131). -/
def sendBytesOps (bs : List Byte) : List SeqOp := bs.map datOp

/-- WAIT_IDLE(), its counter at 0 (R132). -/
def waitOps : List SeqOp := [.wait 0]

/-- HW_RESET() (R133). -/
def hwResetOps (c : Config) : List SeqOp :=
  [.rst .high, .delay c.tRstHigh1, .rst .low, .delay c.tRstLow, .rst .high, .delay c.tRstHigh2]

/-- SET_AREA(xs, ys, xe, ye): no wait follows (R134, R258). -/
def setAreaOps (xs ys xe ye : Int) : List SeqOp :=
  [cmdOp 0x44, datOp (xb xs), datOp (xb xe),
   cmdOp 0x45, datOp (lo8 ys), datOp (hi8 ys), datOp (lo8 ye), datOp (hi8 ye)]

/-- SET_PTR(x, y), which ends with a wait (R135). -/
def setPtrOps (x y : Int) : List SeqOp :=
  [cmdOp 0x4E, datOp (xb x), cmdOp 0x4F, datOp (lo8 y), datOp (hi8 y)] ++ waitOps

/-- REFRESH_FULL() (R136). -/
def refreshFullOps : List SeqOp := [cmdOp 0x22, datOp 0xF7, cmdOp 0x20] ++ waitOps

/-- REFRESH_PART() (R137). -/
def refreshPartOps : List SeqOp := [cmdOp 0x22, datOp 0xFF, cmdOp 0x20] ++ waitOps

/-- EMIT_FRAMES(list) (R139). -/
def emitFramesOps (fs : List Frame) : List SeqOp := fs.map SeqOp.frame

/-- SEND_BUFFER(c, B): the command, then each of the `N` bytes read and sent (R140). -/
def sendBufferOps (c : Config) (b : Byte) (base : Nat) : List SeqOp :=
  cmdOp b :: (List.range (bufLen c)).map (fun i => SeqOp.sendMem (base + i))

/-- SEND_WHITE(c): the command, then `N` bytes 0xFF, reading no memory (R140). -/
def sendWhiteOps (c : Config) (b : Byte) : List SeqOp :=
  cmdOp b :: List.replicate (bufLen c) (datOp 0xFF)

/-- INIT_WINDOW(mode) (R141). -/
def initWindowOps (c : Config) (mode : InitMode) : List SeqOp :=
  match mode, c.yWindowReading with
  | .lowDir, _ => setAreaOps 0 0 (c.width - 1) (c.height - 1)
  | .highDir, .highEndFirst => setAreaOps 0 (c.height - 1) (c.width - 1) 0
  | .highDir, .msbFirst =>
    [cmdOp 0x44, datOp 0x00, datOp (xb (c.width - 1)),
     cmdOp 0x45, datOp 0x00, datOp 0x00, datOp (hi8 (c.height - 1)), datOp (lo8 (c.height - 1))]

/-- YORG(mode) (R142). -/
def yOrigin (c : Config) (mode : InitMode) : Int :=
  match mode, c.yWindowReading with
  | .lowDir, _ => 0
  | .highDir, .highEndFirst => c.height - 1
  | .highDir, .msbFirst => 0

/-- The data-entry-mode byte of a variant (R100, R192). -/
def demByte (c : Config) : InitMode → Byte
  | .highDir => c.demHigh
  | .lowDir => c.demLow

end Sys2Proof.Machine
end

