-- ==== Sys2Proof/Machine/Protocol.lean ====
section
/-! DEFINITION. The meanings of the seven protocol requests (spec/41_protocol_ops.md R100 to R108). -/

namespace Sys2Proof.Machine

open Sys2Proof

/-- INIT's sequence after a successful bring-up, in R100's order. -/
def initOps (c : Config) (mode : InitMode) : List SeqOp :=
  hwResetOps c ++
  [cmdOp 0x12] ++ waitOps ++
  [cmdOp 0x01] ++ sendBytesOps c.docPayload ++
  [cmdOp 0x11, datOp (demByte c mode)] ++
  initWindowOps c mode ++
  [cmdOp 0x3C] ++ sendBytesOps c.borderPayload ++
  emitFramesOps c.tempselSeq ++
  setPtrOps 0 (yOrigin c mode) ++
  [.life .initialized, .respond respDone]

/-- INIT's sequence after its bring-up: a failure is answered at once and changes nothing else (R100, R221). -/
def initAfter (c : Config) (mode : InitMode) : UpResult → List SeqOp
  | .failure => [.respond respFail]
  | .success => initOps c mode

/-- INIT (R100). -/
def execInit (mode : InitMode) (s : State) : Host.Outcome State Fault Refusal :=
  .next (runOps (initAfter s.cfg mode (upResult s)) (bringUp s))

/-- The data phase of a buffer that may be `NULL`, which has none (R101, R102, R104). -/
def dataPhaseOps (c : Config) (b : Byte) (buf : Buf) : List SeqOp :=
  match buf with
  | none => []
  | some a => sendBufferOps c b (bufAddr a)

/-- WRFULL (R101). -/
def execWrfull (buf : Buf) (s : State) : Host.Outcome State Fault Refusal :=
  .next (runOps (dataPhaseOps s.cfg 0x24 buf ++ refreshFullOps ++ [.respond respDone]) (markMisuse s))

/-- WRBASE: bank 1, then bank 2, the buffer read once for each (R102). -/
def execWrbase (buf : Buf) (s : State) : Host.Outcome State Fault Refusal :=
  .next (runOps (dataPhaseOps s.cfg 0x24 buf ++ dataPhaseOps s.cfg 0x26 buf ++ refreshFullOps ++
    [.respond respDone]) (markMisuse s))

/-- WRWHITE (R103). -/
def execWrwhite (s : State) : Host.Outcome State Fault Refusal :=
  .next (runOps (sendWhiteOps s.cfg 0x24 ++ sendWhiteOps s.cfg 0x26 ++ refreshFullOps ++
    [.respond respDone]) (markMisuse s))

/-- WRPART (R104). -/
def execWrpart (buf : Buf) (s : State) : Host.Outcome State Fault Refusal :=
  .next (runOps (dataPhaseOps s.cfg 0x24 buf ++ refreshPartOps ++ [.respond respDone]) (markMisuse s))

/-- BLIT's data phase: row by row, the byte for (i, j) read at `buf + j*stride + i` (R105, R107). -/
def blitDataOps (base : Nat) (g : BlitGeom) : List SeqOp :=
  (List.range g.rows).flatMap fun j =>
    (List.range g.cols).map fun i => SeqOp.sendMem (base + j * g.stride + i)

/-- BLIT's sequence once its arguments pass: window, pointer with its wait, 0x24, data (R105). -/
def blitOps (base : Nat) (y : Int) (g : BlitGeom) : List SeqOp :=
  setAreaOps g.x0 y g.xe g.ye ++ setPtrOps g.x0 y ++ [cmdOp 0x24] ++ blitDataOps base g ++
  [.respond respDone]

/-- BLIT with its operands read (R105): the argument check comes before the MISUSE update (R228). -/
def blitAt (base : Nat) (x y wd ht : Int) (s : State) : State :=
  if blitArgsOk x y wd ht then runOps (blitOps base y (blitGeom s.cfg x y wd ht)) (markMisuse s) else noop s

/-- BLIT (R105). -/
def execBlit (buf : Buf) (x y wd ht : Word) (s : State) : Host.Outcome State Fault Refusal :=
  match buf with
  | none => .next (noop s)
  | some a => .next (blitAt (bufAddr a) (coord x) (coord y) (coord wd) (coord ht) s)

/-- SLEEP (R108). -/
def execSleep (s : State) : Host.Outcome State Fault Refusal :=
  .next (runOps ([cmdOp 0x10, datOp s.cfg.dsPayload] ++ waitOps ++
    [.rst .low, .life .sleeping, .respond respDone]) (markMisuse s))

end Sys2Proof.Machine
end

