-- ==== Sys2Proof/Machine/Wire.lean ====
section
/-! DEFINITION. The meanings of the wire frames (spec/44_wire_commands.md R190 to R203). A frame is what the PPC emits, so
running it is emitting it: SEND_CMD of its byte, or SEND_DATA, as EMIT_FRAMES does for each frame of a list (R139; log 8).
The payload and the waits around a command belong to the request that sends it. -/

namespace Sys2Proof.Machine

open Sys2Proof

/-- Command frame 0x01 (R190, R130). -/
def execCmdDriverOutputControl (s : State) : Host.Outcome State Fault Refusal := .next (sendCmd 0x01 s)

/-- Command frame 0x10 (R191, R130). -/
def execCmdDeepSleep (s : State) : Host.Outcome State Fault Refusal := .next (sendCmd 0x10 s)

/-- Command frame 0x11 (R192, R130). -/
def execCmdDataEntryMode (s : State) : Host.Outcome State Fault Refusal := .next (sendCmd 0x11 s)

/-- Command frame 0x12 (R193, R130). -/
def execCmdSoftwareReset (s : State) : Host.Outcome State Fault Refusal := .next (sendCmd 0x12 s)

/-- Command frame 0x20 (R194, R130). -/
def execCmdMasterActivation (s : State) : Host.Outcome State Fault Refusal := .next (sendCmd 0x20 s)

/-- Command frame 0x22 (R195, R130). -/
def execCmdDisplayUpdateControl2 (s : State) : Host.Outcome State Fault Refusal := .next (sendCmd 0x22 s)

/-- Command frame 0x24 (R196, R130). -/
def execCmdWriteRamBank1 (s : State) : Host.Outcome State Fault Refusal := .next (sendCmd 0x24 s)

/-- Command frame 0x26 (R197, R130). -/
def execCmdWriteRamBank2 (s : State) : Host.Outcome State Fault Refusal := .next (sendCmd 0x26 s)

/-- Command frame 0x3C (R198, R130). -/
def execCmdBorderWaveformControl (s : State) : Host.Outcome State Fault Refusal := .next (sendCmd 0x3C s)

/-- Command frame 0x44 (R199, R130). -/
def execCmdRamXWindow (s : State) : Host.Outcome State Fault Refusal := .next (sendCmd 0x44 s)

/-- Command frame 0x45 (R200, R130). -/
def execCmdRamYWindow (s : State) : Host.Outcome State Fault Refusal := .next (sendCmd 0x45 s)

/-- Command frame 0x4E (R201, R130). -/
def execCmdRamXCounter (s : State) : Host.Outcome State Fault Refusal := .next (sendCmd 0x4E s)

/-- Command frame 0x4F (R202, R130). -/
def execCmdRamYCounter (s : State) : Host.Outcome State Fault Refusal := .next (sendCmd 0x4F s)

/-- A data frame (R203, R131). -/
def execData (b : Byte) (s : State) : Host.Outcome State Fault Refusal := .next (sendData b s)

end Sys2Proof.Machine
end

