-- ==== Sys2Proof/Machine/Dispatch.lean ====
section
/-! DEFINITION. The dispatch: one arm per constructor of Instr, each one call of the instruction's meaning. -/

namespace Sys2Proof.Machine

open Sys2Proof

def exec (i : Instr) (s : State) : Host.Outcome State Fault Refusal :=
  match i with
  | .init mode => Sys2Proof.Machine.execInit mode s
  | .wrfull buf => Sys2Proof.Machine.execWrfull buf s
  | .wrbase buf => Sys2Proof.Machine.execWrbase buf s
  | .wrwhite => Sys2Proof.Machine.execWrwhite s
  | .wrpart buf => Sys2Proof.Machine.execWrpart buf s
  | .blit buf x y wd ht => Sys2Proof.Machine.execBlit buf x y wd ht s
  | .sleep => Sys2Proof.Machine.execSleep s
  | .fbclear buf col => Sys2Proof.Machine.execFbclear buf col s
  | .fbsetpix buf x y col => Sys2Proof.Machine.execFbsetpix buf x y col s
  | .fbsetabs buf x y col => Sys2Proof.Machine.execFbsetabs buf x y col s
  | .setrot rot => Sys2Proof.Machine.execSetrot rot s
  | .rddim => Sys2Proof.Machine.execRddim s
  | .cmdDriverOutputControl => Sys2Proof.Machine.execCmdDriverOutputControl s
  | .cmdDeepSleep => Sys2Proof.Machine.execCmdDeepSleep s
  | .cmdDataEntryMode => Sys2Proof.Machine.execCmdDataEntryMode s
  | .cmdSoftwareReset => Sys2Proof.Machine.execCmdSoftwareReset s
  | .cmdMasterActivation => Sys2Proof.Machine.execCmdMasterActivation s
  | .cmdDisplayUpdateControl2 => Sys2Proof.Machine.execCmdDisplayUpdateControl2 s
  | .cmdWriteRamBank1 => Sys2Proof.Machine.execCmdWriteRamBank1 s
  | .cmdWriteRamBank2 => Sys2Proof.Machine.execCmdWriteRamBank2 s
  | .cmdBorderWaveformControl => Sys2Proof.Machine.execCmdBorderWaveformControl s
  | .cmdRamXWindow => Sys2Proof.Machine.execCmdRamXWindow s
  | .cmdRamYWindow => Sys2Proof.Machine.execCmdRamYWindow s
  | .cmdRamXCounter => Sys2Proof.Machine.execCmdRamXCounter s
  | .cmdRamYCounter => Sys2Proof.Machine.execCmdRamYCounter s
  | .data b => Sys2Proof.Machine.execData b s

end Sys2Proof.Machine
end

