-- ==== Sys2Proof/Machine/Fetch.lean ====
section
/-! DEFINITION. What a step fetches: the next operation of the request in progress, or else the next request on the port
(spec/10_state.md R31, spec/60_exceptions.md R234, spec/70_reset_and_hazards.md R261). -/

namespace Sys2Proof.Machine

open Sys2Proof

/-- A request leaves the port. One that fails a check of R75 is refused: only `REFUSED` changes, and the PPC goes on to the
next request (R224, R261). Otherwise it is latched (R71) and run. -/
def acceptRequest (r : Request) (s : State) : Host.Outcome State Fault Refusal :=
  match decodeRequest s.cfg r with
  | .error _ => .next (refuse s)
  | .ok i => exec i (s.setLatched (some r))

/-- A frame the sequencer has next: an instruction of R77 or R203, or a command byte only `TEMPSEL_SEQ` can hold, which is
emitted all the same (R78, R139; log 9). -/
def runFrame (f : Frame) (s : State) : Host.Outcome State Fault Refusal :=
  match decodeFrame f with
  | .error _ => .next (sendFrame f s)
  | .ok i => exec i s

/-- Takes up a request that stands before `op`: stuck if the access of `op` is not admitted (R225), else it goes on. -/
def resume (op : SeqOp) (rest : List SeqOp) (s : State) : Host.Outcome State Fault Refusal :=
  match stuckAt op s with
  | some a => .fault (.unadmittedAccess a)
  | none => .next (runOps (op :: rest) s)

/-- With no request in progress: the next request, or waiting for one, which changes nothing (R250; log 7). -/
def fetchRequest (s : State) : Host.Outcome State Fault Refusal :=
  match s.port with
  | [] => .next s
  | r :: rest => acceptRequest r (s.setPort rest)

/-- One step: the request in progress comes before the next one (R59, R234). -/
def fetchAndRun (s : State) : Host.Outcome State Fault Refusal :=
  match s.seq with
  | [] => fetchRequest s
  | .frame f :: rest => runFrame f (s.setSeq rest)
  | op :: rest => resume op rest s

/-- Puts an encoded instruction where the next step fetches (logs 7, 8): a request at the head of the port, with no request
in progress; a frame at the head of the sequence. -/
def placeEncoded (e : Encoded) (s : State) : State :=
  match e with
  | .request r => ((s.setSeq []).setLatched none).setPort (r :: s.port)
  | .frame code => s.setSeq (.frame (frameOfCode code) :: s.seq)

end Sys2Proof.Machine
end

