-- ==== Sys2Proof/Machine/Step.lean ====
section
/-! DEFINITION. The step function and the placing of an opcode table word where it fetches. -/

namespace Sys2Proof.Machine

open Sys2Proof

/-- One step of the machine: a whole request (R21, D1), or what is left of one, or one frame the sequencer has next. -/
def step (s : State) : Host.Outcome State Fault Refusal := fetchAndRun s

/-- The state with an opcode table word placed where `step` fetches its next instruction (logs 7, 8, 15). -/
def State.withFetchWord (s : State) (nbits w : Nat) : State := placeEncoded (tableWord nbits w) s

end Sys2Proof.Machine
end

