-- ==== Sys2Proof/Safety.lean ====
section
/-! DEFINITION. The terms claims use: where a machine stands between steps, what a wait emits, what a trace says, and what a
safe run is. Written from the spec's own descriptions, apart from the operations the meanings call. -/

namespace Sys2Proof.Safety

open Sys2Proof Machine

/-- The acts of a frame: the data/command pin, then the byte (`Cbb` and `Dbb` of R82). -/
def frameActs (c : Config) : Frame → List Act
  | .cmd b => [.ev (.setPin .dc c.dcCmdLevel), .ev (.xfer b)]
  | .dat b => [.ev (.setPin .dc c.dcCmdLevel.other), .ev (.xfer b)]

/-- The acts of a list of frames, in order. -/
def framesActs (c : Config) (fs : List Frame) : List Act := fs.flatMap (frameActs c)

/-- The data frames of a list of bytes. -/
def dats (bs : List Byte) : List Frame := bs.map Frame.dat

/-- The level the `j`-th busy sample from now on reads: an answer State lists, or past them a free value (R9; log 6). -/
def answerAt (s : State) (j : Nat) : Level :=
  match s.busyAnswers[j]? with
  | some l => l
  | none => Config.freeBusy (s.drawn + (j - s.busyAnswers.length))

/-- The state once `m` busy samples have been answered. -/
def afterSamples (m : Nat) (s : State) : State :=
  { s with busyAnswers := s.busyAnswers.drop m, drawn := s.drawn + (m - s.busyAnswers.length) }

/-- `k` pairs of a sample that reads busy and the delay after it (R132). -/
def busyPairs (c : Config) (k : Nat) : List Act :=
  (List.replicate k [Act.ev (.sample c.busyActiveLevel), Act.ev (.delay c.busyPollMs)]).flatten

/-- `w` is what one WAIT_IDLE emits from `s` and `m` is how many samples it takes (R132, "Events"): `k` busy pairs and one
idle sample, `k` below the bound, or exactly `BUSY_MAX_POLLS` busy pairs and nothing else. -/
def WaitEnds (s : State) (m : Nat) (w : List Act) : Prop :=
  (∃ k, (∀ n, s.cfg.busyMaxPolls = some n → k < n) ∧
      (∀ j, j < k → answerAt s j = s.cfg.busyActiveLevel) ∧ answerAt s k ≠ s.cfg.busyActiveLevel ∧
      m = k + 1 ∧ w = busyPairs s.cfg k ++ [.ev (.sample (answerAt s k))]) ∨
  (s.cfg.busyMaxPolls = some m ∧ (∀ j, j < m → answerAt s j = s.cfg.busyActiveLevel) ∧
      w = busyPairs s.cfg m)

/-- The next `m` waits end without leaving the machine waiting: the wait is bounded, or the next `m` samples read idle. -/
def WaitsPass (s : State) (m : Nat) : Prop :=
  s.cfg.busyMaxPolls ≠ none ∨ ∀ j, j < m → answerAt s j ≠ s.cfg.busyActiveLevel

/-- A request has ended with response `r`, having added `l` to the log (R261): nothing of it is left in the sequencer. -/
def completed (l : List Act) (r : Response) (s : State) : State :=
  { s with log := s.log ++ l, responses := s.responses ++ [r], seq := [], latched := none }

/-- No request is in progress (R34, R261). -/
def Idle (s : State) : Prop := s.seq = []

/-- The machine is stuck at host address `a`: its request's next access is not admitted (R50, R225). -/
def StuckAt (s : State) (a : Nat) : Prop :=
  ∃ op rest, s.seq = op :: rest ∧ opAddr op = some a ∧ admits s.cfg a = false

/-- The machine is inside an unbounded wait (R226). -/
def Waiting (s : State) : Prop :=
  s.cfg.busyMaxPolls = none ∧ ∃ i rest, s.seq = .wait i :: rest

/-- The end of a request that has its effect: `LIFE` where the request sets it, then the response `(0, 0)` (R26, R84, R100,
R108). RDDIM and a failed INIT answer otherwise, within the step that takes them up. -/
def closing : Instr → List SeqOp
  | .init _ => [.life .initialized, .respond ⟨0, 0⟩]
  | .sleep => [.life .sleeping, .respond ⟨0, 0⟩]
  | .wrfull _ => [.respond ⟨0, 0⟩]
  | .wrbase _ => [.respond ⟨0, 0⟩]
  | .wrwhite => [.respond ⟨0, 0⟩]
  | .wrpart _ => [.respond ⟨0, 0⟩]
  | .blit _ _ _ _ _ => [.respond ⟨0, 0⟩]
  | .fbclear _ _ => [.respond ⟨0, 0⟩]
  | .fbsetpix _ _ _ _ => [.respond ⟨0, 0⟩]
  | .fbsetabs _ _ _ _ => [.respond ⟨0, 0⟩]
  | .setrot _ => [.respond ⟨0, 0⟩]
  | .rddim => [.respond ⟨0, 0⟩]
  | .cmdDriverOutputControl => []
  | .cmdDeepSleep => []
  | .cmdDataEntryMode => []
  | .cmdSoftwareReset => []
  | .cmdMasterActivation => []
  | .cmdDisplayUpdateControl2 => []
  | .cmdWriteRamBank1 => []
  | .cmdWriteRamBank2 => []
  | .cmdBorderWaveformControl => []
  | .cmdRamXWindow => []
  | .cmdRamYWindow => []
  | .cmdRamXCounter => []
  | .cmdRamYCounter => []
  | .data _ => []

/-- An operation of a request before its end: it neither sets `LIFE` nor answers. -/
def bodyOp : SeqOp → Bool
  | .frame _ => true
  | .wait _ => true
  | .rst _ => true
  | .delay _ => true
  | .sendMem _ => true
  | .store _ _ => true
  | .plot _ _ _ => true
  | .life _ => false
  | .respond _ => false

/-- Request `r`, which decodes to `i`, is in progress between two steps: latched, with operations before its end still to
perform, and stuck or inside an unbounded wait (R31, R225, R226). -/
def InProgress (r : Request) (i : Instr) (s : State) : Prop :=
  s.latched = some r ∧ decodeRequest s.cfg r = .ok i ∧
  (∃ body, s.seq = body ++ closing i ∧ body.all bodyOp = true) ∧ ((∃ a, StuckAt s a) ∨ Waiting s)

/-- What a machine is between two steps: idle with nothing latched, or with one request in progress (R34, R220, R261). -/
def BetweenSteps (s : State) : Prop :=
  (Idle s ∧ s.latched = none) ∨ ∃ r i, InProgress r i s

/-- The request a step works on: the one in progress, or else the next on the port (R234). -/
def currentRequest (s : State) : Option Request :=
  match s.latched with
  | some r => some r
  | none => s.port.head?

/-- `LIFE` once a request that has its effect is done (R26). -/
def lifeAfter (i : Instr) (l : Life) : Life :=
  if i = .init .highDir ∨ i = .init .lowDir then .initialized else if i = .sleep then .sleeping else l

/-- A request has added `l` to the log and stands in an unbounded wait whose first sample read busy, with `left` to perform
after it (R132, R226; log 5). -/
def leftWaiting (l : List Act) (left : List SeqOp) (s : State) : State :=
  { afterSamples 1 s with log := s.log ++ l ++ busyPairs s.cfg 1, seq := .wait 1 :: left }

/-- Every byte of `[base, base + len)` is admitted. -/
def RangeAdmitted (c : Config) (base len : Nat) : Prop := ∀ i, i < len → admits c (base + i) = true

/-- The event of an act, if it is one. -/
def eventOf : Act → Option Event
  | .ev e => some e
  | .rd _ _ => none
  | .wr _ _ => none

/-- The trace of R9, R10 and R261: the events alone, in order. -/
def trace (s : State) : List Event := s.log.filterMap eventOf

/-- The level last driven on a pin in a log, or none (R29). -/
def lastLevel (p : OutPin) (l : List Act) : Option Level :=
  l.foldl (fun cur a => match a with
    | .ev (.setPin q lv) => if q = p then some lv else cur
    | .ev (.xfer _) => cur
    | .ev (.sample _) => cur
    | .ev (.delay _) => cur
    | .ev (.bringUp _) => cur
    | .rd _ _ => cur
    | .wr _ _ => cur) none

/-- Host memory after the writes of a log. -/
def replay : Memory → List Act → Memory
  | m, [] => m
  | m, .wr a v :: l => replay (writeByte m a v) l
  | m, .ev _ :: l => replay m l
  | m, .rd _ _ :: l => replay m l

/-- Every read of a log reads what memory holds at that moment (R59, R64), and every access is admitted (R50). -/
def accessesTrue (c : Config) : Memory → List Act → Bool
  | _, [] => true
  | m, .wr a v :: l => admits c a && accessesTrue c (writeByte m a v) l
  | m, .rd a v :: l => admits c a && decide (readByte m a = v) && accessesTrue c m l
  | m, .ev _ :: l => accessesTrue c m l

/-- How many busy samples a log holds. -/
def sampleCount (l : List Act) : Nat :=
  l.countP fun a => match a with
    | .ev (.sample _) => true
    | .ev (.setPin _ _) => false
    | .ev (.xfer _) => false
    | .ev (.delay _) => false
    | .ev (.bringUp _) => false
    | .rd _ _ => false
    | .wr _ _ => false

/-- Every byte of a log goes out directly after its data/command pin event, with a level and a byte `ok` allows (R76,
R130, R131). -/
def framesOk (ok : Level → Byte → Bool) : List Act → Bool
  | [] => true
  | .ev (.setPin .dc l) :: .ev (.xfer b) :: rest => ok l b && framesOk ok rest
  | .ev (.xfer _) :: _ => false
  | .ev (.setPin _ _) :: rest => framesOk ok rest
  | .ev (.sample _) :: rest => framesOk ok rest
  | .ev (.delay _) :: rest => framesOk ok rest
  | .ev (.bringUp _) :: rest => framesOk ok rest
  | .rd _ _ :: rest => framesOk ok rest
  | .wr _ _ :: rest => framesOk ok rest

/-- The thirteen command bytes of R77. -/
def listedCommands : List Byte :=
  [0x01, 0x10, 0x11, 0x12, 0x20, 0x22, 0x24, 0x26, 0x3C, 0x44, 0x45, 0x4E, 0x4F]

/-- The frames the PPC may emit (R70): a command of R77, a data frame, or a frame of `TEMPSEL_SEQ`. -/
def frameAllowed (c : Config) : Frame → Bool
  | .cmd b => decide (b ∈ listedCommands) || decide (Frame.cmd b ∈ c.tempselSeq)
  | .dat _ => true

/-- What R70 allows on the link: read off the pin level and the byte. -/
def linkAllowed (c : Config) (l : Level) (b : Byte) : Bool :=
  if l = c.dcCmdLevel then frameAllowed c (.cmd b) else frameAllowed c (.dat b)

/-- The operations a sequence holds are ones a request of R100 to R166 can have left: its frames are allowed by R70. -/
def seqAllowed (s : State) : Bool :=
  s.seq.all fun op => match op with
    | .frame f => frameAllowed s.cfg f
    | .wait _ => true
    | .rst _ => true
    | .delay _ => true
    | .sendMem _ => true
    | .store _ _ => true
    | .plot _ _ _ => true
    | .life _ => true
    | .respond _ => true

/-- `LIFE` and `RST_L` as they will stand once a sequence has been performed. -/
def lifeAndRst (l : Life) (r : Option Level) : List SeqOp → Life × Option Level
  | [] => (l, r)
  | .rst v :: ops => lifeAndRst l (some v) ops
  | .life v :: ops => lifeAndRst v r ops
  | .frame _ :: ops => lifeAndRst l r ops
  | .wait _ :: ops => lifeAndRst l r ops
  | .delay _ :: ops => lifeAndRst l r ops
  | .sendMem _ :: ops => lifeAndRst l r ops
  | .store _ _ :: ops => lifeAndRst l r ops
  | .plot _ _ _ :: ops => lifeAndRst l r ops
  | .respond _ :: ops => lifeAndRst l r ops

/-- The reset pin a lifecycle value goes with: not yet driven before the first INIT or SLEEP, high once initialised, low
while asleep (R26, R29, R108, R133). -/
def rstOfLife : Life → Option Level → Bool
  | .uninit, r => decide (r = none)
  | .initialized, r => decide (r = some .high)
  | .sleeping, r => decide (r = some .low)

/-- The machine's invariant: memory keeps its canonical form, both latches hold the level last driven (R29), and once the
request in progress is done the reset pin agrees with `LIFE`. -/
def Inv (s : State) : Prop :=
  s.mem.wf = true ∧ s.rstL = lastLevel .rst s.log ∧ s.dcL = lastLevel .dc s.log ∧
  rstOfLife (lifeAndRst s.life s.rstL s.seq).1 (lifeAndRst s.life s.rstL s.seq).2 = true

/-- A run on which claims about the panel may be made so far: no refused request (R28), no lifecycle misuse (R27). -/
def Dutiful (s : State) : Prop := s.refused = false ∧ s.misuse = false

/-- A safe state: dutiful, and not stuck (R225). -/
def Safe (s : State) : Prop := Dutiful s ∧ ∀ a, ¬ StuckAt s a

/-! The terms of single requests, in the spec's own arithmetic. -/

/-- A number's low byte, and the byte above it, as wire bytes (R8, R79). -/
def byteAt (v k : Nat) : Byte := BitVec.ofNat 8 (v / k)

/-- `MISUSE` after a panel-writing request begins (R27). -/
def misuseAfter (s : State) : Bool := s.misuse || decide (s.life ≠ .initialized)

/-- The state once the environment has answered one bring-up (R138). -/
def afterBringUp (s : State) : State :=
  { s with upAnswers := s.upAnswers.drop 1, drawn := s.drawn + (1 - s.upAnswers.length) }

/-- The answer to the next bring-up: one State lists, or past them a free value (R9; log 6). -/
def upAnswer (s : State) : UpResult := (s.upAnswers[0]?).getD (Config.freeUp s.drawn)

/-- The bytes at `base`, `base + 1`, … each read and then sent (R140, R59). -/
def bufferActs (c : Config) (m : Memory) (base len : Nat) : List Act :=
  (List.range len).flatMap fun i =>
    .rd (base + i) (readByte m (base + i)) :: frameActs c (.dat (readByte m (base + i)))

/-- A bank's data phase for a buffer that may be `NULL`: the command and `W/8 * H` bytes, or nothing (R101, R140). -/
def bankActs (c : Config) (m : Memory) (b : Byte) (buf : Buf) : List Act :=
  match buf with
  | none => []
  | some a => frameActs c (.cmd b) ++ bufferActs c m a.toNat (c.width / 8 * c.height)

/-- A white data phase: the command and `W/8 * H` bytes 0xFF (R103, R140). -/
def whiteActs (c : Config) (b : Byte) : List Act :=
  frameActs c (.cmd b) ++ framesActs c (List.replicate (c.width / 8 * c.height) (.dat 0xFF))

/-- Every byte of a buffer that is not `NULL` is admitted. -/
def BufferAdmitted (c : Config) (buf : Buf) : Prop :=
  ∀ a, buf = some a → RangeAdmitted c a.toNat (c.width / 8 * c.height)

/-- The Y payload of 0x45 in INIT, by variant and reading: the table of R141. -/
def initYWindow (c : Config) : InitMode → YWindowReading → List Byte
  | .lowDir, _ => [0x00, 0x00, byteAt (c.height - 1) 1, byteAt (c.height - 1) 256]
  | .highDir, .highEndFirst => [byteAt (c.height - 1) 1, byteAt (c.height - 1) 256, 0x00, 0x00]
  | .highDir, .msbFirst => [0x00, 0x00, byteAt (c.height - 1) 256, byteAt (c.height - 1) 1]

/-- The Y counter payload of 0x4F in INIT, by variant and reading: R142. -/
def initYCounter (c : Config) : InitMode → YWindowReading → List Byte
  | .lowDir, _ => [0x00, 0x00]
  | .highDir, .highEndFirst => [byteAt (c.height - 1) 1, byteAt (c.height - 1) 256]
  | .highDir, .msbFirst => [0x00, 0x00]

/-- The data-entry-mode byte of a variant (R192). -/
def initDem (c : Config) : InitMode → Byte
  | .highDir => c.demHigh
  | .lowDir => c.demLow

/-- The reset pulse of INIT (R133). -/
def pulseActs (c : Config) : List Act :=
  [.ev (.setPin .rst .high), .ev (.delay c.tRstHigh1), .ev (.setPin .rst .low), .ev (.delay c.tRstLow),
   .ev (.setPin .rst .high), .ev (.delay c.tRstHigh2)]

/-- The frames of INIT between its two waits (R100, R141, R142). -/
def initFrames (c : Config) (mode : InitMode) : List Frame :=
  [.cmd 0x01] ++ dats c.docPayload ++ [.cmd 0x11, .dat (initDem c mode)] ++
  [.cmd 0x44, .dat 0x00, .dat (byteAt (c.width - 1) 8), .cmd 0x45] ++ dats (initYWindow c mode c.yWindowReading) ++
  [.cmd 0x3C] ++ dats c.borderPayload ++ c.tempselSeq ++
  [.cmd 0x4E, .dat 0x00, .cmd 0x4F] ++ dats (initYCounter c mode c.yWindowReading)

/-- The address of a native pixel's byte in a buffer at `base`: `y*WB + x div 8` (R52). -/
def pixelAddr (c : Config) (base : Nat) (x y : Int) : Nat := base + (y.toNat * (c.width / 8) + x.toNat / 8)

/-- `t` is `s` after one pixel write by a request that completes (R164): the byte at the pixel's address is read and written
back, bit `7 - x mod 8` becoming 0 for colored and 1 for white, every other bit and every other byte staying as it is. -/
def PixelWritten (s : State) (base : Nat) (x y : Int) (col : Bool) (t : State) : Prop :=
  ∃ v : Byte,
    (∀ k, k < 8 → v.getLsbD k =
      if k = 7 - x.toNat % 8 then !col else (readByte s.mem (pixelAddr s.cfg base x y)).getLsbD k) ∧
    (∀ a, readByte t.mem a = if a = pixelAddr s.cfg base x y then v else readByte s.mem a) ∧
    t.mem.wf = true ∧
    t = { completed [.rd (pixelAddr s.cfg base x y) (readByte s.mem (pixelAddr s.cfg base x y)),
            .wr (pixelAddr s.cfg base x y) v] ⟨0, 0⟩ s with mem := t.mem }

/-- The panel-writing requests of R27: a BLIT is one only when it passes its argument check. -/
def panelWriting : Instr → Bool
  | .init _ => false
  | .wrfull _ => true
  | .wrbase _ => true
  | .wrwhite => true
  | .wrpart _ => true
  | .blit buf x y wd ht =>
    buf.isSome && !x.msb && !y.msb && !wd.msb && !ht.msb
  | .sleep => true
  | .fbclear _ _ => false
  | .fbsetpix _ _ _ _ => false
  | .fbsetabs _ _ _ _ => false
  | .setrot _ => false
  | .rddim => false
  | .cmdDriverOutputControl => false
  | .cmdDeepSleep => false
  | .cmdDataEntryMode => false
  | .cmdSoftwareReset => false
  | .cmdMasterActivation => false
  | .cmdDisplayUpdateControl2 => false
  | .cmdWriteRamBank1 => false
  | .cmdWriteRamBank2 => false
  | .cmdBorderWaveformControl => false
  | .cmdRamXWindow => false
  | .cmdRamYWindow => false
  | .cmdRamXCounter => false
  | .cmdRamYCounter => false
  | .data _ => false

/-- The framebuffer requests (R167). -/
def framebufferRequest : Instr → Bool
  | .init _ => false
  | .wrfull _ => false
  | .wrbase _ => false
  | .wrwhite => false
  | .wrpart _ => false
  | .blit _ _ _ _ _ => false
  | .sleep => false
  | .fbclear _ _ => true
  | .fbsetpix _ _ _ _ => true
  | .fbsetabs _ _ _ _ => true
  | .setrot _ => true
  | .rddim => true
  | .cmdDriverOutputControl => false
  | .cmdDeepSleep => false
  | .cmdDataEntryMode => false
  | .cmdSoftwareReset => false
  | .cmdMasterActivation => false
  | .cmdDisplayUpdateControl2 => false
  | .cmdWriteRamBank1 => false
  | .cmdWriteRamBank2 => false
  | .cmdBorderWaveformControl => false
  | .cmdRamXWindow => false
  | .cmdRamYWindow => false
  | .cmdRamXCounter => false
  | .cmdRamYCounter => false
  | .data _ => false

/-- How many waits a request makes at most (R223). -/
def waitsOf (i : Instr) : Nat :=
  if framebufferRequest i || !i.isRequest then 0 else if i = .init .highDir ∨ i = .init .lowDir then 2 else 1

/-- The fields of R71 that the format of the opcode in w0[7:0] does not use, some of them not 0: R72's table by number. -/
def UnusedFieldSet (r : Request) : Prop :=
  (r.w0.toNat % 256 ∉ [2, 3, 5, 6, 16, 17, 18] ∧ (r.w0.toNat / 256 % 2 ≠ 0 ∨ r.w1.toNat ≠ 0)) ∨
  (r.w0.toNat % 256 ∉ [16, 17, 18] ∧ r.w0.toNat / 512 % 2 ≠ 0) ∨
  (r.w0.toNat % 256 ≠ 1 ∧ r.w0.toNat / 1024 % 2 ≠ 0) ∨
  (r.w0.toNat % 256 ≠ 19 ∧ r.w0.toNat / 2048 % 4 ≠ 0) ∨
  (r.w0.toNat % 256 ∉ [6, 17, 18] ∧ (r.w2.toNat ≠ 0 ∨ r.w3.toNat ≠ 0)) ∨
  (r.w0.toNat % 256 ≠ 6 ∧ (r.w4.toNat ≠ 0 ∨ r.w5.toNat ≠ 0))

/-- The opcode in w0[7:0] is one of R74's twelve. -/
def OpcodeAssigned (r : Request) : Prop :=
  r.w0.toNat % 256 ∈ [1, 2, 3, 4, 5, 6, 7, 16, 17, 18, 19, 20]

/-- The format of the opcode in w0[7:0] uses `BV` and `BUF` (R72, R74). -/
def OpcodeTakesBuffer (r : Request) : Prop := r.w0.toNat % 256 ∈ [2, 3, 5, 6, 16, 17, 18]

/-- The thirteen commands of R77, by byte. -/
def commandTable : List (Instr × Byte) :=
  [(.cmdDriverOutputControl, 0x01), (.cmdDeepSleep, 0x10), (.cmdDataEntryMode, 0x11),
   (.cmdSoftwareReset, 0x12), (.cmdMasterActivation, 0x20), (.cmdDisplayUpdateControl2, 0x22),
   (.cmdWriteRamBank1, 0x24), (.cmdWriteRamBank2, 0x26), (.cmdBorderWaveformControl, 0x3C),
   (.cmdRamXWindow, 0x44), (.cmdRamYWindow, 0x45), (.cmdRamXCounter, 0x4E), (.cmdRamYCounter, 0x4F)]

/-- Two states that differ at most in `LIFE` and `MISUSE`. -/
def SameButLifecycle (s t : State) : Prop := t = { s with life := t.life, misuse := t.misuse }

end Sys2Proof.Safety
end

