-- ==== Sys2Proof/Certificates/Slice0/Obligations.lean ====
section
/-! DEFINITION. The statements for the provers. -/

open Sys2Proof Sys2Proof.Machine Sys2Proof.Safety

/-! Encoding. -/

/-- V-DEC vectors of spec/95_test_vectors.md and the frame values of V-WIRE, one of every family, decode as they should. -/
def Obligations.WrittenWordsDecode : Prop :=
  decode Config.ref (.request ⟨0x00000401, 0, 0, 0, 0, 0⟩) = .ok (.init .highDir) ∧
  decode Config.ref (.request ⟨0x00000102, 0x1000, 0, 0, 0, 0⟩) = .ok (.wrfull (some 0x1000)) ∧
  decode Config.ref (.request ⟨0x00000002, 0, 0, 0, 0, 0⟩) = .ok (.wrfull none) ∧
  decode Config.ref (.request ⟨0x00000106, 0x1000, 0x00000003, 0, 0x0000000D, 0x00000001⟩) =
    .ok (.blit (some 0x1000) 3 0 13 1) ∧
  decode Config.ref (.request ⟨0x00000310, 0x1000, 0, 0, 0, 0⟩) = .ok (.fbclear (some 0x1000) true) ∧
  decode Config.ref (.request ⟨0x00000311, 0x1000, 2, 5, 0, 0⟩) = .ok (.fbsetpix (some 0x1000) 2 5 true) ∧
  decode Config.ref (.request ⟨0x00001813, 0, 0, 0, 0, 0⟩) = .ok (.setrot 3) ∧
  decode Config.ref (.frame 0x04F) = .ok .cmdRamYCounter ∧
  decode Config.ref (.frame 0x1F7) = .ok (.data 0xF7)

/-- Every well-formed instruction is decoded from its own encoding, every operand at every value (R71 to R77). -/
def Obligations.DecodeOfEncode : Prop :=
  ∀ (c : Config) (i : Instr), configOk c = true → i.wf c = true → decode c (encode i) = .ok i

/-- The other direction: an encoding the decoder accepts is the encoding of what it answers, so no bit of the words or of the
frame is dropped, and each has one meaning (R71 to R78). -/
def Obligations.EncodeOfDecode : Prop :=
  ∀ (c : Config) (e : Encoded) (i : Instr), decode c e = .ok i → encode i = e ∧ i.wf c = true

/-- R75, check by check, in its order, by the numbers of R71, R72 and R74. A request that passes them all decodes to the
instruction whose encoding it is, so every operand is the field R73 names. -/
def Obligations.RequestChecksInOrder : Prop :=
  ∀ (c : Config) (r : Request), configOk c = true →
    (¬ OpcodeAssigned r → decodeRequest c r = .error .unassignedOpcode) ∧
    (OpcodeAssigned r → 2 ^ 13 ≤ r.w0.toNat → decodeRequest c r = .error .reservedBits) ∧
    (OpcodeAssigned r → r.w0.toNat < 2 ^ 13 → UnusedFieldSet r →
      decodeRequest c r = .error .unusedFieldNonzero) ∧
    (OpcodeAssigned r → r.w0.toNat < 2 ^ 13 → ¬ UnusedFieldSet r → OpcodeTakesBuffer r →
      r.w0.toNat / 256 % 2 = 0 → r.w1.toNat ≠ 0 → decodeRequest c r = .error .nullWithAddress) ∧
    (OpcodeAssigned r → r.w0.toNat < 2 ^ 13 → ¬ UnusedFieldSet r → OpcodeTakesBuffer r →
      r.w0.toNat / 256 % 2 = 1 → 2 ^ c.addrBits ≤ r.w1.toNat → decodeRequest c r = .error .addressTooWide) ∧
    (OpcodeAssigned r → r.w0.toNat < 2 ^ 13 → ¬ UnusedFieldSet r →
      ¬ (OpcodeTakesBuffer r ∧ r.w0.toNat / 256 % 2 = 0 ∧ r.w1.toNat ≠ 0) →
      ¬ (OpcodeTakesBuffer r ∧ r.w0.toNat / 256 % 2 = 1 ∧ 2 ^ c.addrBits ≤ r.w1.toNat) →
      ∃ i, decodeRequest c r = .ok i ∧ encode i = .request r)

/-- The constraints of R7's table, and what R224 says of a configuration that breaks one: any request under it is refused,
`BadConfiguration`. `MEM_ADMIT` is the set of addresses its regions hold (log 12): each is below `2^ADDR_BITS`. That this
check comes before R75's is the model's choice (log 13). -/
def Obligations.BrokenConfigurationRefusesAll : Prop :=
  ∀ c : Config,
    (configOk c = true ↔
      8 ≤ c.width ∧ c.width ≤ 2048 ∧ c.width % 8 = 0 ∧ 1 ≤ c.height ∧ c.height ≤ 65536 ∧
      1 ≤ c.addrBits ∧ c.addrBits ≤ 32 ∧
      (∀ r ∈ c.memAdmit, ∀ a, r.base ≤ a → a < r.base + r.size → a < 2 ^ c.addrBits) ∧
      c.busyMaxPolls ≠ some 0 ∧ c.docPayload ≠ [] ∧ c.demHigh ≠ c.demLow ∧ c.borderPayload ≠ [] ∧
      c.tempselSeq ≠ []) ∧
    (configOk c = false → ∀ r, decodeRequest c r = .error .badConfiguration)

/-- The byte functions of R8 are the integer functions it writes, and what they give for -1 (R134's corner case). -/
def Obligations.ByteFunctionsTruncate : Prop :=
  (∀ v : Int, ((xb v).toNat : Int) = v / 8 % 256 ∧ ((lo8 v).toNat : Int) = v % 256 ∧
    ((hi8 v).toNat : Int) = v / 256 % 256) ∧
  xb (-1) = 0xFF ∧ lo8 (-1) = 0xFF ∧ hi8 (-1) = 0xFF ∧ xb 2048 = 0x00

/-! The step. -/

/-- With no request in progress, a step takes the next request off the port, latches it and is exec of the instruction the
request decodes to (R71, R73, R234). -/
def Obligations.StepRunsTheDecodedRequest : Prop :=
  ∀ (s : State) (r : Request) (rest : List Request) (i : Instr), s.seq = [] → s.port = r :: rest →
    decodeRequest s.cfg r = .ok i → step s = exec i { s with port := rest, latched := some r }

/-- A frame the sequencer has next runs as the instruction it decodes to; one that R77 does not list is emitted all the same,
as EMIT_FRAMES emits every frame of TEMPSEL_SEQ (R78, R139; logs 8 and 9). -/
def Obligations.StepRunsTheDecodedFrame : Prop :=
  ∀ (s : State) (f : Frame) (rest : List SeqOp), s.seq = .frame f :: rest →
    (∀ i, decodeFrame f = .ok i → step s = exec i { s with seq := rest }) ∧
    (∀ e, decodeFrame f = .error e →
      step s = .next { s with seq := rest, log := s.log ++ frameActs s.cfg f, dcL := some s.cfg.dcCmdLevel })

/-- A request that is refused sets REFUSED and changes nothing else but leaving the port: no event, no memory access, no
response (R224, R28); the machine goes on to the next request (R261). -/
def Obligations.RefusedRequestOnlyMarks : Prop :=
  ∀ (s : State) (r : Request) (rest : List Request) (e : DecodeError), s.seq = [] → s.port = r :: rest →
    decodeRequest s.cfg r = .error e → step s = .next { s with port := rest, refused := true }

/-- With no request in progress and none presented, the PPC waits: a step changes nothing (R250). That waiting is a step that
stutters is the model's choice (log 7). -/
def Obligations.EmptyPortWaits : Prop :=
  ∀ s : State, s.seq = [] → s.port = [] → step s = .next s

/-- Reset, under any configuration: every element of R34 at its value, nothing emitted, read or written (R250). -/
def Obligations.ResetLeavesTheSpecValues : Prop :=
  ∀ c : Config, (State.resetWith c).rot = 0 ∧ logW (State.resetWith c) = c.width ∧
    logH (State.resetWith c) = c.height ∧ (State.resetWith c).rstL = none ∧ (State.resetWith c).dcL = none ∧
    (State.resetWith c).life = .uninit ∧ (State.resetWith c).misuse = false ∧
    (State.resetWith c).refused = false ∧ (State.resetWith c).seq = [] ∧ (State.resetWith c).latched = none ∧
    (State.resetWith c).log = [] ∧ (State.resetWith c).responses = [] ∧ (State.resetWith c).port = []

/-- A machine stuck at an access has no next step (R50, R225). -/
def Obligations.StuckMachineHasNoNextStep : Prop :=
  ∀ (s : State) (a : Nat), StuckAt s a → step s = .fault (.unadmittedAccess a)

/-- Nothing else stops the machine: from a state that is not stuck every step answers a next state, so no request traps and no
instruction is refused by the model (R220, R225, R229, R230; logs 7 and 11). -/
def Obligations.OnlyStuckStatesStop : Prop :=
  ∀ s : State, (∀ a, ¬ StuckAt s a) → ∃ t, step s = .next t

/-- An opcode table word placed where the machine fetches is what the very next step runs. -/
def Obligations.PlacedTableWordRunsNext : Prop :=
  ∀ (s : State) (nbits w : Nat) (i : Instr), s.cfg = Config.ref → decodeTableWord nbits w = some i →
    (i.isRequest = true → step (s.withFetchWord nbits w) =
      exec i { s with seq := [], latched := some (requestOfNat w) }) ∧
    (i.isRequest = false → step (s.withFetchWord nbits w) = exec i s)

/-! The wait. -/

/-- WAIT_IDLE, R132, as a step that begins at one: bounded, it ends with the events R132 lists and the request goes on;
unbounded, an idle sample ends it and a busy sample is followed by the delay and one more poll. -/
def Obligations.WaitIdlePolls : Prop :=
  ∀ (s : State) (i : Nat) (rest : List SeqOp), s.seq = .wait i :: rest →
    (i = 0 → s.cfg.busyMaxPolls ≠ none →
      ∃ m w, WaitEnds s m w ∧ step s = .next (runOps rest { afterSamples m s with log := s.log ++ w })) ∧
    (s.cfg.busyMaxPolls = none → answerAt s 0 ≠ s.cfg.busyActiveLevel →
      step s = .next (runOps rest
        { afterSamples 1 s with log := s.log ++ [.ev (.sample (answerAt s 0))] })) ∧
    (s.cfg.busyMaxPolls = none → answerAt s 0 = s.cfg.busyActiveLevel →
      step s = .next { afterSamples 1 s with
        log := s.log ++ [.ev (.sample s.cfg.busyActiveLevel), .ev (.delay s.cfg.busyPollMs)]
        seq := .wait (i + 1) :: rest })

/-- An unbounded wait, over any number of steps: while every answer is busy it is still waiting after k steps, with k pairs
emitted (the hang of R226), and it goes on with the request at the step whose sample reads idle. -/
def Obligations.UnboundedWaitHangsUntilIdle : Prop :=
  ∀ (s : State) (i k : Nat) (rest : List SeqOp), s.seq = .wait i :: rest → s.cfg.busyMaxPolls = none →
    (∀ j, j < k → answerAt s j = s.cfg.busyActiveLevel) →
    (Sys2Proof.core.run k s = .next { afterSamples k s with
        log := s.log ++ busyPairs s.cfg k, seq := .wait (i + k) :: rest }) ∧
    (answerAt s k ≠ s.cfg.busyActiveLevel → Sys2Proof.core.run (k + 1) s =
      .next (runOps rest { afterSamples (k + 1) s with
        log := s.log ++ (busyPairs s.cfg k ++ [.ev (.sample (answerAt s k))])
        seq := .wait (i + k) :: rest }))

/-! Wire frames. -/

/-- SEND_CMD and SEND_DATA, for every byte and whatever level the pin already has, and SEND_BYTES as SEND_DATA of each byte
in order (R130, R131). -/
def Obligations.SendPrimitivesDriveThePin : Prop :=
  (∀ (b : Byte) (s : State), sendCmd b s = { s with
    log := s.log ++ [.ev (.setPin .dc s.cfg.dcCmdLevel), .ev (.xfer b)], dcL := some s.cfg.dcCmdLevel }) ∧
  (∀ (b : Byte) (s : State), sendData b s = { s with
    log := s.log ++ [.ev (.setPin .dc s.cfg.dcCmdLevel.other), .ev (.xfer b)]
    dcL := some s.cfg.dcCmdLevel.other }) ∧
  (∀ (bs : List Byte) (ops : List SeqOp) (s : State),
    runOps (sendBytesOps bs ++ ops) s = runOps ops (bs.foldl (fun t b => sendData b t) s))

/-- Every command frame drives the data/command pin to `DC_CMD_LEVEL`, sends its byte, and changes nothing else (R130). -/
def Obligations.CommandFrameIsSent : Prop :=
  ∀ p ∈ commandTable, ∀ s : State, exec p.1 s = .next { s with
    log := s.log ++ [.ev (.setPin .dc s.cfg.dcCmdLevel), .ev (.xfer p.2)]
    dcL := some s.cfg.dcCmdLevel }

/-- A data frame drives the pin to the other level, sends its byte, and changes nothing else (R131). -/
def Obligations.DataFrameIsSent : Prop :=
  ∀ (b : Byte) (s : State), exec (.data b) s = .next { s with
    log := s.log ++ [.ev (.setPin .dc s.cfg.dcCmdLevel.other), .ev (.xfer b)]
    dcL := some s.cfg.dcCmdLevel.other }

/-! Protocol requests. -/

/-- INIT_WINDOW, the table of R141: the frames of each row, and the call of SET_AREA that the first two rows equal. -/
def Obligations.InitWindowFollowsTheTable : Prop :=
  ∀ (c : Config) (W H : Int), configOk c = true → W = c.width → H = c.height →
    initWindowOps c .lowDir = ([.cmd 0x44, .dat 0x00, .dat (xb (W - 1)),
      .cmd 0x45, .dat 0x00, .dat 0x00, .dat (lo8 (H - 1)), .dat (hi8 (H - 1))] : List Frame).map .frame ∧
    initWindowOps c .lowDir = setAreaOps 0 0 (W - 1) (H - 1) ∧
    (c.yWindowReading = .highEndFirst →
      initWindowOps c .highDir = ([.cmd 0x44, .dat 0x00, .dat (xb (W - 1)),
        .cmd 0x45, .dat (lo8 (H - 1)), .dat (hi8 (H - 1)), .dat 0x00, .dat 0x00] : List Frame).map .frame ∧
      initWindowOps c .highDir = setAreaOps 0 (H - 1) (W - 1) 0) ∧
    (c.yWindowReading = .msbFirst →
      initWindowOps c .highDir = ([.cmd 0x44, .dat 0x00, .dat (xb (W - 1)),
        .cmd 0x45, .dat 0x00, .dat 0x00, .dat (hi8 (H - 1)), .dat (lo8 (H - 1))] : List Frame).map .frame)

/-- INIT whose bring-up fails: that event, the response FAIL, and nothing else (R221). -/
def Obligations.InitFailsOnBringUp : Prop :=
  ∀ (mode : InitMode) (s : State), upAnswer s = .failure →
    exec (.init mode) s = .next (completed [.ev (.bringUp .failure)] ⟨1, 0⟩ (afterBringUp s))

/-- INIT whose bring-up succeeds: the reset pulse, 0x12 and its wait, the frames of R100 with the window of R141 and the
counter of R142, the second wait, LIFE, the response OK. -/
def Obligations.InitRunsItsSequence : Prop :=
  ∀ (mode : InitMode) (s : State), configOk s.cfg = true → upAnswer s = .success →
    WaitsPass (afterBringUp s) 2 →
    ∃ m₁ w₁ m₂ w₂, WaitEnds (afterBringUp s) m₁ w₁ ∧ WaitEnds (afterSamples m₁ (afterBringUp s)) m₂ w₂ ∧
      exec (.init mode) s = .next { completed
        ([.ev (.bringUp .success)] ++ pulseActs s.cfg ++ frameActs s.cfg (.cmd 0x12) ++ w₁ ++
          framesActs s.cfg (initFrames s.cfg mode) ++ w₂) ⟨0, 0⟩
        (afterSamples (m₁ + m₂) (afterBringUp s)) with
        rstL := some .high, dcL := some s.cfg.dcCmdLevel.other, life := .initialized }

/-- Under UNBOUNDED, an INIT left inside either of its two waits by a busy sample: what it has emitted stands, and what comes
after the wait, LIFE and the response among it, has not come yet (R100, R132, R226; log 5). -/
def Obligations.InitWaitsWhileBusy : Prop :=
  ∀ (mode : InitMode) (s : State), configOk s.cfg = true → upAnswer s = .success → s.cfg.busyMaxPolls = none →
    (answerAt (afterBringUp s) 0 = s.cfg.busyActiveLevel →
      exec (.init mode) s = .next { leftWaiting
          ([.ev (.bringUp .success)] ++ pulseActs s.cfg ++ frameActs s.cfg (.cmd 0x12))
          ((initFrames s.cfg mode).map .frame ++ [.wait 0, .life .initialized, .respond ⟨0, 0⟩])
          (afterBringUp s) with
        rstL := some .high, dcL := some s.cfg.dcCmdLevel }) ∧
    (answerAt (afterBringUp s) 0 ≠ s.cfg.busyActiveLevel →
      answerAt (afterBringUp s) 1 = s.cfg.busyActiveLevel →
      exec (.init mode) s = .next { leftWaiting
          ([.ev (.bringUp .success)] ++ pulseActs s.cfg ++ frameActs s.cfg (.cmd 0x12) ++
            [.ev (.sample (answerAt (afterBringUp s) 0))] ++ framesActs s.cfg (initFrames s.cfg mode))
          [.life .initialized, .respond ⟨0, 0⟩]
          (afterSamples 1 (afterBringUp s)) with
        rstL := some .high, dcL := some s.cfg.dcCmdLevel.other })

/-- WRFULL: the buffer to bank 1 unless it is NULL, then the full refresh (R101, R140, R136). -/
def Obligations.WrfullPushesAndRefreshes : Prop :=
  ∀ (buf : Buf) (s : State), BufferAdmitted s.cfg buf → WaitsPass s 1 →
    ∃ m w, WaitEnds s m w ∧ exec (.wrfull buf) s = .next { completed
      (bankActs s.cfg s.mem 0x24 buf ++ framesActs s.cfg [.cmd 0x22, .dat 0xF7, .cmd 0x20] ++ w) ⟨0, 0⟩
      (afterSamples m s) with misuse := misuseAfter s, dcL := some s.cfg.dcCmdLevel }

/-- WRBASE: the buffer to bank 1 and, read again, to bank 2, unless it is NULL; then the full refresh (R102). -/
def Obligations.WrbaseWritesBothBanks : Prop :=
  ∀ (buf : Buf) (s : State), BufferAdmitted s.cfg buf → WaitsPass s 1 →
    ∃ m w, WaitEnds s m w ∧ exec (.wrbase buf) s = .next { completed
      (bankActs s.cfg s.mem 0x24 buf ++ bankActs s.cfg s.mem 0x26 buf ++
        framesActs s.cfg [.cmd 0x22, .dat 0xF7, .cmd 0x20] ++ w) ⟨0, 0⟩
      (afterSamples m s) with misuse := misuseAfter s, dcL := some s.cfg.dcCmdLevel }

/-- WRWHITE: white to both banks without a memory access, then the full refresh (R103). -/
def Obligations.WrwhiteWritesWhite : Prop :=
  ∀ s : State, WaitsPass s 1 →
    ∃ m w, WaitEnds s m w ∧ exec .wrwhite s = .next { completed
      (whiteActs s.cfg 0x24 ++ whiteActs s.cfg 0x26 ++
        framesActs s.cfg [.cmd 0x22, .dat 0xF7, .cmd 0x20] ++ w) ⟨0, 0⟩
      (afterSamples m s) with misuse := misuseAfter s, dcL := some s.cfg.dcCmdLevel }

/-- WRPART: the buffer to bank 1 unless it is NULL, then the partial refresh (R104, R137). -/
def Obligations.WrpartRefreshesPartially : Prop :=
  ∀ (buf : Buf) (s : State), BufferAdmitted s.cfg buf → WaitsPass s 1 →
    ∃ m w, WaitEnds s m w ∧ exec (.wrpart buf) s = .next { completed
      (bankActs s.cfg s.mem 0x24 buf ++ framesActs s.cfg [.cmd 0x22, .dat 0xFF, .cmd 0x20] ++ w) ⟨0, 0⟩
      (afterSamples m s) with misuse := misuseAfter s, dcL := some s.cfg.dcCmdLevel }

/-- A request over a whole buffer of which only the first `k` bytes, fewer than `N`, are admitted: what it did before the
first unadmitted byte stands (the reads and frames of a write, the stores of FBCLEAR), no response is returned, nothing else
has changed, and the machine is stuck at that byte (R50, R160, R225; log 11). -/
def Obligations.UnadmittedByteSticksTheWrite : Prop :=
  ∀ (a : Word) (k : Nat) (s : State), k < s.cfg.width / 8 * s.cfg.height →
    RangeAdmitted s.cfg a.toNat k → admits s.cfg (a.toNat + k) = false →
    (∀ i ∈ [Instr.wrfull (some a), .wrbase (some a), .wrpart (some a)],
      ∃ t, exec i s = .next t ∧ StuckAt t (a.toNat + k) ∧ step t = .fault (.unadmittedAccess (a.toNat + k)) ∧
        t = { s with
          log := s.log ++ frameActs s.cfg (.cmd 0x24) ++ bufferActs s.cfg s.mem a.toNat k
          misuse := misuseAfter s
          dcL := some (if k = 0 then s.cfg.dcCmdLevel else s.cfg.dcCmdLevel.other)
          seq := t.seq }) ∧
    (∀ col : Bool, s.mem.wf = true →
      ∃ t, exec (.fbclear (some a) col) s = .next t ∧ StuckAt t (a.toNat + k) ∧
        step t = .fault (.unadmittedAccess (a.toNat + k)) ∧
        (∀ x, readByte t.mem x =
          if a.toNat ≤ x ∧ x < a.toNat + k then (if col then 0x00 else 0xFF) else readByte s.mem x) ∧
        t.mem.wf = true ∧
        t = { s with
          log := s.log ++ (List.range k).map fun i => Act.wr (a.toNat + i) (if col then 0x00 else 0xFF)
          mem := t.mem
          seq := t.seq })

/-- A BLIT whose arguments pass and whose wait passes, with every row before row `j` admitted and, of row `j`, only the first
`k` bytes, fewer than `cols`: the window, the pointer, the wait, 0x24 and the bytes before that one stand, no response is
returned, nothing else has changed, and the machine is stuck at that byte (R105, R106, R107, R225; log 11). -/
def Obligations.UnadmittedByteSticksTheBlit : Prop :=
  ∀ (a x y wd ht : Word) (s : State) (x0 w0 xe ye : Int) (stride rows cols j k : Nat),
    0 ≤ x.toInt → 0 ≤ y.toInt → 0 ≤ wd.toInt → 0 ≤ ht.toInt →
    x0 = x.toInt - x.toInt % 8 → w0 = wd.toInt - wd.toInt % 8 →
    xe = min (x0 + w0 - 1) (s.cfg.width - 1) → ye = min (y.toInt + ht.toInt - 1) (s.cfg.height - 1) →
    stride = (w0 / 8).toNat → rows = (ye - y.toInt + 1).toNat → cols = ((xe - x0 + 1) / 8).toNat →
    j < rows → k < cols → (∀ r, r < j → RangeAdmitted s.cfg (a.toNat + r * stride) cols) →
    RangeAdmitted s.cfg (a.toNat + j * stride) k → admits s.cfg (a.toNat + j * stride + k) = false →
    WaitsPass s 1 →
    ∃ m w t, WaitEnds s m w ∧ exec (.blit (some a) x y wd ht) s = .next t ∧
      StuckAt t (a.toNat + j * stride + k) ∧
      step t = .fault (.unadmittedAccess (a.toNat + j * stride + k)) ∧
      t = { afterSamples m s with
        log := s.log ++ framesActs s.cfg [.cmd 0x44, .dat (xb x0), .dat (xb xe),
            .cmd 0x45, .dat (lo8 y.toInt), .dat (hi8 y.toInt), .dat (lo8 ye), .dat (hi8 ye),
            .cmd 0x4E, .dat (xb x0), .cmd 0x4F, .dat (lo8 y.toInt), .dat (hi8 y.toInt)] ++ w ++
          frameActs s.cfg (.cmd 0x24) ++
          ((List.range j).flatMap fun r => bufferActs s.cfg s.mem (a.toNat + r * stride) cols) ++
          bufferActs s.cfg s.mem (a.toNat + j * stride) k
        misuse := misuseAfter s
        dcL := some (if j = 0 ∧ k = 0 then s.cfg.dcCmdLevel else s.cfg.dcCmdLevel.other)
        seq := t.seq }

/-- Under UNBOUNDED, a write or a BLIT whose first busy sample reads busy is left inside its one wait: what it has emitted
stands, and what comes after the wait (the response; for BLIT 0x24 and the data, too) has not come yet (R101 to R105, R132,
R226; log 5). -/
def Obligations.WritesWaitWhileBusy : Prop :=
  ∀ s : State, s.cfg.busyMaxPolls = none → answerAt s 0 = s.cfg.busyActiveLevel →
    (∀ buf : Buf, BufferAdmitted s.cfg buf →
      ∀ p ∈ [(Instr.wrfull buf, bankActs s.cfg s.mem 0x24 buf, (0xF7 : Byte)),
          (.wrbase buf, bankActs s.cfg s.mem 0x24 buf ++ bankActs s.cfg s.mem 0x26 buf, 0xF7),
          (.wrwhite, whiteActs s.cfg 0x24 ++ whiteActs s.cfg 0x26, 0xF7),
          (.wrpart buf, bankActs s.cfg s.mem 0x24 buf, 0xFF)],
        exec p.1 s = .next { leftWaiting
            (p.2.1 ++ framesActs s.cfg [.cmd 0x22, .dat p.2.2, .cmd 0x20]) [.respond ⟨0, 0⟩] s with
          misuse := misuseAfter s, dcL := some s.cfg.dcCmdLevel }) ∧
    (∀ (a x y wd ht : Word) (x0 w0 xe ye : Int) (stride rows cols : Nat),
      0 ≤ x.toInt → 0 ≤ y.toInt → 0 ≤ wd.toInt → 0 ≤ ht.toInt →
      x0 = x.toInt - x.toInt % 8 → w0 = wd.toInt - wd.toInt % 8 →
      xe = min (x0 + w0 - 1) (s.cfg.width - 1) → ye = min (y.toInt + ht.toInt - 1) (s.cfg.height - 1) →
      stride = (w0 / 8).toNat → rows = (ye - y.toInt + 1).toNat → cols = ((xe - x0 + 1) / 8).toNat →
      exec (.blit (some a) x y wd ht) s = .next { leftWaiting
          (framesActs s.cfg [.cmd 0x44, .dat (xb x0), .dat (xb xe),
            .cmd 0x45, .dat (lo8 y.toInt), .dat (hi8 y.toInt), .dat (lo8 ye), .dat (hi8 ye),
            .cmd 0x4E, .dat (xb x0), .cmd 0x4F, .dat (lo8 y.toInt), .dat (hi8 y.toInt)])
          ([.frame (.cmd 0x24)] ++ ((List.range rows).flatMap fun j =>
            (List.range cols).map fun i => .sendMem (a.toNat + j * stride + i)) ++ [.respond ⟨0, 0⟩]) s with
        misuse := misuseAfter s, dcL := some s.cfg.dcCmdLevel.other })

/-- The table of R222, row by row: an invalid argument is a silent no-op with response DONE. -/
def Obligations.InvalidArgumentsAreIgnored : Prop :=
  ∀ (buf : Buf) (x y wd ht : Word) (col : Bool) (s : State) (m : Int × Int),
    m = mapPoint s.cfg s.rot x.toInt y.toInt →
    ((buf = none ∨ x.toInt < 0 ∨ y.toInt < 0 ∨ wd.toInt < 0 ∨ ht.toInt < 0) →
      exec (.blit buf x y wd ht) s = .next (completed [] ⟨0, 0⟩ s)) ∧
    (buf = none → exec (.fbclear buf col) s = .next (completed [] ⟨0, 0⟩ s)) ∧
    ((buf = none ∨ ¬ (0 ≤ x.toInt ∧ x.toInt < s.cfg.width ∧ 0 ≤ y.toInt ∧ y.toInt < s.cfg.height)) →
      exec (.fbsetabs buf x y col) s = .next (completed [] ⟨0, 0⟩ s)) ∧
    ((buf = none ∨ ¬ (0 ≤ x.toInt ∧ x.toInt < logW s ∧ 0 ≤ y.toInt ∧ y.toInt < logH s) ∨
        ¬ (0 ≤ m.1 ∧ m.1 < s.cfg.width ∧ 0 ≤ m.2 ∧ m.2 < s.cfg.height)) →
      exec (.fbsetpix buf x y col) s = .next (completed [] ⟨0, 0⟩ s))

/-- BLIT whose arguments pass: the window, the pointer and its wait, 0x24, and the rows of the clamped rectangle read at the
unclamped stride; no refresh (R105, R106, R107). -/
def Obligations.BlitSendsTheRectangle : Prop :=
  ∀ (a x y wd ht : Word) (s : State) (x0 w0 xe ye : Int) (stride rows cols : Nat),
    0 ≤ x.toInt → 0 ≤ y.toInt → 0 ≤ wd.toInt → 0 ≤ ht.toInt →
    x0 = x.toInt - x.toInt % 8 → w0 = wd.toInt - wd.toInt % 8 →
    xe = min (x0 + w0 - 1) (s.cfg.width - 1) → ye = min (y.toInt + ht.toInt - 1) (s.cfg.height - 1) →
    stride = (w0 / 8).toNat → rows = (ye - y.toInt + 1).toNat → cols = ((xe - x0 + 1) / 8).toNat →
    (∀ j, j < rows → RangeAdmitted s.cfg (a.toNat + j * stride) cols) → WaitsPass s 1 →
    ∃ m w, WaitEnds s m w ∧ exec (.blit (some a) x y wd ht) s = .next { completed
      (framesActs s.cfg [.cmd 0x44, .dat (xb x0), .dat (xb xe),
          .cmd 0x45, .dat (lo8 y.toInt), .dat (hi8 y.toInt), .dat (lo8 ye), .dat (hi8 ye),
          .cmd 0x4E, .dat (xb x0), .cmd 0x4F, .dat (lo8 y.toInt), .dat (hi8 y.toInt)] ++ w ++
        frameActs s.cfg (.cmd 0x24) ++
        (List.range rows).flatMap fun j => bufferActs s.cfg s.mem (a.toNat + j * stride) cols) ⟨0, 0⟩
      (afterSamples m s) with
      misuse := misuseAfter s
      dcL := some (if rows = 0 ∨ cols = 0 then s.cfg.dcCmdLevel else s.cfg.dcCmdLevel.other) }

/-- R106: the seven values by its formulas, the second readings of `rows` and `cols`, that `cols * 8` is the clamped width
where it is positive, and that `cols` is below the stride exactly when the clamp cut the width. -/
def Obligations.BlitGeometryClamps : Prop :=
  ∀ (c : Config) (x y wd ht : Int) (g : BlitGeom), configOk c = true → 0 ≤ x → 0 ≤ y → 0 ≤ wd → 0 ≤ ht →
    g = blitGeom c x y wd ht →
    g.x0 = x - x % 8 ∧ g.w0 = wd - wd % 8 ∧
    g.xe = min (g.x0 + g.w0 - 1) (c.width - 1) ∧ g.ye = min (y + ht - 1) (c.height - 1) ∧
    (g.stride : Int) = g.w0 / 8 ∧ (g.rows : Int) = max 0 (g.ye - y + 1) ∧
    (g.cols : Int) = max 0 ((g.xe - g.x0 + 1) / 8) ∧
    (g.rows : Int) = (if y < c.height then min ht (c.height - y) else 0) ∧
    (g.cols : Int) = (if g.x0 < c.width then min g.w0 (c.width - g.x0) / 8 else 0) ∧
    (0 < g.xe - g.x0 + 1 → (g.xe - g.x0 + 1) % 8 = 0 ∧ (g.cols : Int) * 8 = g.xe - g.x0 + 1) ∧
    g.cols ≤ g.stride ∧
    (g.cols < g.stride ↔ 0 < g.w0 ∧ (c.width : Int) < g.x0 + g.w0) ∧
    (x = 259 → g.x0 = 256)

/-- SLEEP: deep-sleep and its byte, the wait, the reset pin low, LIFE, the response (R108). -/
def Obligations.SleepRunsItsSequence : Prop :=
  ∀ s : State, WaitsPass s 1 →
    ∃ m w, WaitEnds s m w ∧ exec .sleep s = .next { completed
      (framesActs s.cfg [.cmd 0x10, .dat s.cfg.dsPayload] ++ w ++ [.ev (.setPin .rst .low)]) ⟨0, 0⟩
      (afterSamples m s) with
      misuse := misuseAfter s, dcL := some s.cfg.dcCmdLevel.other, rstL := some .low, life := .sleeping }

/-- Under UNBOUNDED, a SLEEP whose first busy sample reads busy is left inside its wait: what it has emitted stands, and
neither the reset pin, nor LIFE, nor a response has come yet (R226; log 5). -/
def Obligations.SleepWaitsWhileBusy : Prop :=
  ∀ s : State, s.cfg.busyMaxPolls = none → answerAt s 0 = s.cfg.busyActiveLevel →
    exec .sleep s = .next { afterSamples 1 s with
      misuse := misuseAfter s, dcL := some s.cfg.dcCmdLevel.other
      log := s.log ++ framesActs s.cfg [.cmd 0x10, .dat s.cfg.dsPayload] ++ busyPairs s.cfg 1
      seq := [.wait 1, .rst .low, .life .sleeping, .respond ⟨0, 0⟩] }

/-! Framebuffer requests. -/

/-- FBCLEAR: NULL is a no-op; otherwise the N bytes, in address order, become 0x00 or 0xFF and every other byte and every
other part of the state stays as it is (R160). -/
def Obligations.FbclearFillsTheBuffer : Prop :=
  ∀ (buf : Buf) (col : Bool) (s : State), s.mem.wf = true → BufferAdmitted s.cfg buf →
    (buf = none → exec (.fbclear buf col) s = .next (completed [] ⟨0, 0⟩ s)) ∧
    (∀ a, buf = some a → ∃ t, exec (.fbclear buf col) s = .next t ∧
      (∀ x, readByte t.mem x =
        if a.toNat ≤ x ∧ x < a.toNat + s.cfg.width / 8 * s.cfg.height then (if col then 0x00 else 0xFF)
        else readByte s.mem x) ∧
      t.mem.wf = true ∧
      t = { completed ((List.range (s.cfg.width / 8 * s.cfg.height)).map fun i =>
          Act.wr (a.toNat + i) (if col then 0x00 else 0xFF)) ⟨0, 0⟩ s with mem := t.mem })

/-- FBSETABS: one pixel of the native geometry (R161, R164); NULL or a point outside is a silent no-op (R222). -/
def Obligations.FbsetabsSetsOnePixel : Prop :=
  ∀ (a x y : Word) (col : Bool) (s : State), configOk s.cfg = true → s.mem.wf = true →
    exec (.fbsetabs none x y col) s = .next (completed [] ⟨0, 0⟩ s) ∧
    (¬ (0 ≤ x.toInt ∧ x.toInt < s.cfg.width ∧ 0 ≤ y.toInt ∧ y.toInt < s.cfg.height) →
      exec (.fbsetabs (some a) x y col) s = .next (completed [] ⟨0, 0⟩ s)) ∧
    (0 ≤ x.toInt → x.toInt < s.cfg.width → 0 ≤ y.toInt → y.toInt < s.cfg.height →
      admits s.cfg (pixelAddr s.cfg a.toNat x.toInt y.toInt) = true →
      ∃ t, exec (.fbsetabs (some a) x y col) s = .next t ∧ PixelWritten s a.toNat x.toInt y.toInt col t)

/-- A pixel write whose byte is not admitted, of FBSETABS at its point or of FBSETPIX at the mapped one: nothing has been
done, and the machine is stuck at that byte (R50, R161, R162, R225; log 11). -/
def Obligations.UnadmittedPixelSticks : Prop :=
  ∀ (a x y : Word) (col : Bool) (s : State) (i : Instr) (px py : Int), configOk s.cfg = true →
    (i = .fbsetabs (some a) x y col ∧ px = x.toInt ∧ py = y.toInt ∨
      i = .fbsetpix (some a) x y col ∧ inLogical s x.toInt y.toInt = true ∧
        (px, py) = mapPoint s.cfg s.rot x.toInt y.toInt) →
    0 ≤ px → px < s.cfg.width → 0 ≤ py → py < s.cfg.height →
    admits s.cfg (pixelAddr s.cfg a.toNat px py) = false →
    ∃ t, exec i s = .next t ∧ t = { s with seq := t.seq } ∧ StuckAt t (pixelAddr s.cfg a.toNat px py) ∧
      step t = .fault (.unadmittedAccess (pixelAddr s.cfg a.toNat px py))

/-- FBSETPIX: the point of R163 for a logical point inside the logical bounds, dropped where it falls outside native
geometry; NULL and points outside the logical bounds are silent no-ops (R162, R163, R222). -/
def Obligations.FbsetpixSetsTheMappedPixel : Prop :=
  ∀ (a x y : Word) (col : Bool) (s : State) (W H X Y nx ny : Int), configOk s.cfg = true → s.mem.wf = true →
    W = s.cfg.width → H = s.cfg.height → X = x.toInt → Y = y.toInt →
    (s.rot = 0 → (nx, ny) = (X, Y)) → (s.rot = 1 → (nx, ny) = (W - Y, X)) →
    (s.rot = 2 → (nx, ny) = (W - X, H - Y)) → (s.rot = 3 → (nx, ny) = (Y, H - X)) →
    exec (.fbsetpix none x y col) s = .next (completed [] ⟨0, 0⟩ s) ∧
    (¬ (0 ≤ X ∧ X < logW s ∧ 0 ≤ Y ∧ Y < logH s) →
      exec (.fbsetpix (some a) x y col) s = .next (completed [] ⟨0, 0⟩ s)) ∧
    (0 ≤ X → X < logW s → 0 ≤ Y → Y < logH s → ¬ (0 ≤ nx ∧ nx < W ∧ 0 ≤ ny ∧ ny < H) →
      exec (.fbsetpix (some a) x y col) s = .next (completed [] ⟨0, 0⟩ s)) ∧
    (0 ≤ X → X < logW s → 0 ≤ Y → Y < logH s → 0 ≤ nx → nx < W → 0 ≤ ny → ny < H →
      admits s.cfg (pixelAddr s.cfg a.toNat nx ny) = true →
      ∃ t, exec (.fbsetpix (some a) x y col) s = .next t ∧ PixelWritten s a.toNat nx ny col t)

/-- MAP, R163: its table; for a point inside the logical bounds, where the mapped point lies and when PLOT drops it; and the
native column and row no point reaches. -/
def Obligations.MapFollowsTheTable : Prop :=
  ∀ (s : State) (x y nx ny W H : Int), W = s.cfg.width → H = s.cfg.height →
    (nx, ny) = mapPoint s.cfg s.rot x y →
    (s.rot = 0 → nx = x ∧ ny = y) ∧ (s.rot = 1 → nx = W - y ∧ ny = x) ∧
    (s.rot = 2 → nx = W - x ∧ ny = H - y) ∧ (s.rot = 3 → nx = y ∧ ny = H - x) ∧
    (inLogical s x y = true →
      (s.rot = 0 → 0 ≤ nx ∧ nx < W ∧ 0 ≤ ny ∧ ny < H) ∧ (s.rot = 1 → 1 ≤ nx ∧ nx ≤ W ∧ 0 ≤ ny ∧ ny < H) ∧
      (s.rot = 2 → 1 ≤ nx ∧ nx ≤ W ∧ 1 ≤ ny ∧ ny ≤ H) ∧ (s.rot = 3 → 0 ≤ nx ∧ nx < W ∧ 1 ≤ ny ∧ ny ≤ H) ∧
      (inNative s.cfg nx ny = false ↔
        (s.rot = 1 ∧ y = 0) ∨ (s.rot = 2 ∧ (x = 0 ∨ y = 0)) ∨ (s.rot = 3 ∧ x = 0)) ∧
      (s.rot = 1 ∨ s.rot = 2 → nx ≠ 0) ∧ (s.rot = 2 ∨ s.rot = 3 → ny ≠ 0))

/-- R52: a native pixel's byte is in row `y` at column `x div 8`, inside the buffer; its mask is bit `7 - x mod 8` alone. -/
def Obligations.PixelLiesInItsRow : Prop :=
  ∀ (c : Config) (x y : Nat), configOk c = true → x < c.width → y < c.height →
    pixelIndex c x y = (x + y * c.width) / 8 ∧ pixelIndex c x y = y * (c.width / 8) + x / 8 ∧
    pixelIndex c x y < c.width / 8 * c.height ∧
    (∀ k, k < 8 → (pixelMask x).getLsbD k = decide (k = 7 - x % 8))

/-- E2 with its premise W = H (C2): twice 90° is 180° on a square panel; and C2's counterexample on 16 × 8. -/
def Obligations.QuarterTurnTwiceIsHalfTurn : Prop :=
  (∀ (c : Config) (x y : Int), c.width = c.height →
    mapPoint c 1 (mapPoint c 1 x y).1 (mapPoint c 1 x y).2 = mapPoint c 2 x y) ∧
  (∀ c : Config, c.width = 16 → c.height = 8 →
    mapPoint c 1 (mapPoint c 1 1 1).1 (mapPoint c 1 1 1).2 = (15, 15) ∧ mapPoint c 2 1 1 = (15, 7))

/-- E1: at 0° FBSETPIX is FBSETABS, for every operand, in bounds and out (R162, R163). -/
def Obligations.UprightPixelIsAbsolute : Prop :=
  ∀ (buf : Buf) (x y : Word) (col : Bool) (s : State), s.rot = 0 →
    exec (.fbsetpix buf x y col) s = exec (.fbsetabs buf x y col) s

/-- SETROT writes ROT, and so LOGW and LOGH, and nothing else (R165, R24). -/
def Obligations.SetrotOnlyTurns : Prop :=
  ∀ (v : BitVec 2) (s : State), ∃ t, exec (.setrot v) s = .next t ∧
    t = { completed [] ⟨0, 0⟩ s with rot := v } ∧
    (v = 0 ∨ v = 2 → logW t = s.cfg.width ∧ logH t = s.cfg.height) ∧
    (v = 1 ∨ v = 3 → logW t = s.cfg.height ∧ logH t = s.cfg.width)

/-- RDDIM returns (LOGW, LOGH), whose values its response words hold exactly, and changes nothing else (R166, R84). -/
def Obligations.RddimReportsDimensions : Prop :=
  ∀ s : State, configOk s.cfg = true → ∃ r : Response, exec .rddim s = .next (completed [] r s) ∧
    r.r0.toNat = (if s.rot = 1 ∨ s.rot = 3 then s.cfg.height else s.cfg.width) ∧
    r.r1.toNat = (if s.rot = 1 ∨ s.rot = 3 then s.cfg.width else s.cfg.height)

/-! Rules about every instruction. -/

/-- MISUSE after any instruction: set by a panel-writing request that begins outside INITIALIZED, else as it was (R27). -/
def Obligations.MisuseMarksPanelWrites : Prop :=
  ∀ (i : Instr) (s t : State), exec i s = .next t →
    t.misuse = (s.misuse || (panelWriting i && decide (s.life ≠ .initialized)))

/-- LIFE changes only by an INIT that answers OK and by SLEEP (R26): of exec; of every step between requests or inside one,
the one that changes it being the one that ends the request and returns its response; and of every step that goes on with a
request in progress, which sets it exactly when the request ends. -/
def Obligations.LifeChangesOnlyByInitAndSleep : Prop :=
  (∀ (i : Instr) (s t : State), exec i s = .next t →
    t.life = s.life ∨ ((∃ mode, i = .init mode) ∧ t.life = .initialized ∧ upAnswer s = .success) ∨
    (i = .sleep ∧ t.life = .sleeping)) ∧
  (∀ s t : State, BetweenSteps s → step s = .next t → t.life ≠ s.life →
    Idle t ∧ t.responses = s.responses ++ [⟨0, 0⟩] ∧ ∃ r, currentRequest s = some r ∧
      ((∃ mode, decodeRequest s.cfg r = .ok (.init mode) ∧ t.life = .initialized) ∨
       (decodeRequest s.cfg r = .ok .sleep ∧ t.life = .sleeping))) ∧
  (∀ (s t : State) (r : Request) (i : Instr), InProgress r i s → step s = .next t →
    t.life = if t.seq = [] then lifeAfter i s.life else s.life)

/-- LIFE gates nothing (R26, R27, D25): from two states that differ only in LIFE and MISUSE, every instruction answers states
that differ only there, so the same events, accesses, writes and responses; and so does every step, also one that goes on
with a request in progress, where one state is stuck the other being stuck at the same access. -/
def Obligations.LifecycleGatesNothing : Prop :=
  ∀ s s' : State, SameButLifecycle s s' →
    (∀ i : Instr, ∃ t t', exec i s = .next t ∧ exec i s' = .next t' ∧ SameButLifecycle t t') ∧
    (∀ t, step s = .next t → ∃ t', step s' = .next t' ∧ SameButLifecycle t t') ∧
    (∀ f, step s = .fault f → step s' = .fault f)

/-- No framebuffer request emits an event or touches LIFE, MISUSE, a pin latch or the environment (R167). -/
def Obligations.FramebufferRequestsAreSilent : Prop :=
  ∀ (i : Instr) (s t : State), framebufferRequest i = true → exec i s = .next t →
    trace t = trace s ∧ t.life = s.life ∧ t.misuse = s.misuse ∧ t.rstL = s.rstL ∧ t.dcL = s.dcL ∧
    t.busyAnswers = s.busyAnswers ∧ t.upAnswers = s.upAnswers ∧ t.drawn = s.drawn

/-- No protocol request and no frame reads or writes ROT or writes host memory (R167, R101): the result under another ROT is
the same but for ROT. -/
def Obligations.ProtocolRequestsLeaveRotAndMemory : Prop :=
  ∀ (i : Instr) (s : State) (v : BitVec 2), framebufferRequest i = false →
    ∃ t, exec i s = .next t ∧ t.rot = s.rot ∧ t.mem = s.mem ∧
      exec i { s with rot := v } = .next { t with rot := v }

/-- No instruction changes the configuration, REFUSED or the requests to come (R25, R28). -/
def Obligations.ExecKeepsConfigurationAndPort : Prop :=
  ∀ (i : Instr) (s t : State), exec i s = .next t →
    t.cfg = s.cfg ∧ t.refused = s.refused ∧ t.port = s.port

/-- A request whose waits are bounded takes no more busy samples than its waits allow: two waits for INIT, one for the
others that wait, none for the rest (R223, R226). -/
def Obligations.BoundedRequestsSampleBoundedly : Prop :=
  ∀ (i : Instr) (s t : State) (n : Nat), s.cfg.busyMaxPolls = some n → exec i s = .next t →
    sampleCount t.log ≤ sampleCount s.log + waitsOf i * n

/-! Rules about every step. -/

/-- Every request has one of R220's outcomes: refused; a response; stuck, with no response; or, under UNBOUNDED only, no end
yet, with no response. In each case it has left the port. -/
def Obligations.EveryRequestHasOneOutcome : Prop :=
  ∀ (s : State) (r : Request) (rest : List Request), s.seq = [] → s.port = r :: rest →
    ∃ t, step s = .next t ∧ t.port = rest ∧
      (((∃ e, decodeRequest s.cfg r = .error e) ∧ t = { s with port := rest, refused := true }) ∨
       ((∃ i, decodeRequest s.cfg r = .ok i) ∧
        ((Idle t ∧ t.latched = none ∧ ∃ resp, t.responses = s.responses ++ [resp]) ∨
         (t.latched = some r ∧ t.responses = s.responses ∧ ((∃ a, StuckAt t a) ∨ Waiting t)))))

/-- Between steps the machine is idle with nothing latched, or has one request in progress, which is stuck or inside an
unbounded wait: every step keeps this. One that goes on with a request in progress returns its response exactly when the
request ends, and leaves it latched until then (R31, R220, R225, R226, R261; logs 5 and 11). -/
def Obligations.StepKeepsTheRequestInProgress : Prop :=
  (∀ s t : State, BetweenSteps s → step s = .next t → BetweenSteps t) ∧
  (∀ (s t : State) (r : Request) (i : Instr), InProgress r i s → step s = .next t →
    (Idle t ∧ t.latched = none ∧ t.responses = s.responses ++ [⟨0, 0⟩]) ∨
    (InProgress r i t ∧ t.responses = s.responses))

/-- The sticky marks: no step clears MISUSE or REFUSED, and REFUSED is set by a refused request alone (R27, R28). -/
def Obligations.StickyMarksNeverClear : Prop :=
  ∀ s t : State, step s = .next t →
    (s.misuse = true → t.misuse = true) ∧
    (t.refused = true ↔ s.refused = true ∨
      ∃ r rest e, s.seq = [] ∧ s.port = r :: rest ∧ decodeRequest s.cfg r = .error e)

/-- The configuration is never written (R7, R25). -/
def Obligations.StepKeepsConfiguration : Prop :=
  ∀ s t : State, step s = .next t → t.cfg = s.cfg

/-- A step appends to the log; host memory after it is host memory before it with the writes appended, in order; and every
read appended reads what memory held at that moment, every access being admitted (R50, R59, R64). -/
def Obligations.MemoryIsItsAccessLog : Prop :=
  ∀ s t : State, step s = .next t →
    ∃ l, t.log = s.log ++ l ∧ t.mem = replay s.mem l ∧ accessesTrue s.cfg s.mem l = true

/-- Every byte a step puts on the link goes out directly after its data/command pin event, and is a command of R77, a data
byte, or a frame of TEMPSEL_SEQ (R70, R78, R263). -/
def Obligations.LinkCarriesOnlyAllowedFrames : Prop :=
  ∀ s t : State, seqAllowed s = true → step s = .next t →
    seqAllowed t = true ∧ ∃ l, t.log = s.log ++ l ∧ framesOk (linkAllowed s.cfg) l = true

/-- The invariant of Safety.lean, kept by every step: memory stays canonical, each latch holds the level last driven on its
pin (R29), and once the request in progress is done the reset pin agrees with LIFE (R26, R108, R133). -/
def Obligations.StepKeepsTheInvariant : Prop :=
  ∀ s t : State, Inv s → step s = .next t → Inv t

/-- The invariant, the allowed sequence, and that the machine is between requests, hold after reset under every
configuration. -/
def Obligations.ResetHasTheInvariant : Prop :=
  ∀ c : Config, Inv (State.resetWith c) ∧ seqAllowed (State.resetWith c) = true ∧
    BetweenSteps (State.resetWith c)
end

