-- ==== Sys2Proof/Laws/State.lean ====
section
/-! SUPPORT. One lemma per field and per named update of State, each true by rfl, so that no later proof unfolds a record
update. -/

namespace Sys2Proof.Machine

open Sys2Proof

section
variable (s : State) (v : BitVec 2)
@[simp] theorem State.setRot_cfg : (s.setRot v).cfg = s.cfg := rfl
@[simp] theorem State.setRot_rot : (s.setRot v).rot = v := rfl
@[simp] theorem State.setRot_rstL : (s.setRot v).rstL = s.rstL := rfl
@[simp] theorem State.setRot_dcL : (s.setRot v).dcL = s.dcL := rfl
@[simp] theorem State.setRot_life : (s.setRot v).life = s.life := rfl
@[simp] theorem State.setRot_misuse : (s.setRot v).misuse = s.misuse := rfl
@[simp] theorem State.setRot_refused : (s.setRot v).refused = s.refused := rfl
@[simp] theorem State.setRot_mem : (s.setRot v).mem = s.mem := rfl
@[simp] theorem State.setRot_port : (s.setRot v).port = s.port := rfl
@[simp] theorem State.setRot_latched : (s.setRot v).latched = s.latched := rfl
@[simp] theorem State.setRot_seq : (s.setRot v).seq = s.seq := rfl
@[simp] theorem State.setRot_log : (s.setRot v).log = s.log := rfl
@[simp] theorem State.setRot_responses : (s.setRot v).responses = s.responses := rfl
@[simp] theorem State.setRot_busyAnswers : (s.setRot v).busyAnswers = s.busyAnswers := rfl
@[simp] theorem State.setRot_upAnswers : (s.setRot v).upAnswers = s.upAnswers := rfl
@[simp] theorem State.setRot_drawn : (s.setRot v).drawn = s.drawn := rfl
end

section
variable (s : State) (v : Option Level)
@[simp] theorem State.setRst_cfg : (s.setRst v).cfg = s.cfg := rfl
@[simp] theorem State.setRst_rot : (s.setRst v).rot = s.rot := rfl
@[simp] theorem State.setRst_rstL : (s.setRst v).rstL = v := rfl
@[simp] theorem State.setRst_dcL : (s.setRst v).dcL = s.dcL := rfl
@[simp] theorem State.setRst_life : (s.setRst v).life = s.life := rfl
@[simp] theorem State.setRst_misuse : (s.setRst v).misuse = s.misuse := rfl
@[simp] theorem State.setRst_refused : (s.setRst v).refused = s.refused := rfl
@[simp] theorem State.setRst_mem : (s.setRst v).mem = s.mem := rfl
@[simp] theorem State.setRst_port : (s.setRst v).port = s.port := rfl
@[simp] theorem State.setRst_latched : (s.setRst v).latched = s.latched := rfl
@[simp] theorem State.setRst_seq : (s.setRst v).seq = s.seq := rfl
@[simp] theorem State.setRst_log : (s.setRst v).log = s.log := rfl
@[simp] theorem State.setRst_responses : (s.setRst v).responses = s.responses := rfl
@[simp] theorem State.setRst_busyAnswers : (s.setRst v).busyAnswers = s.busyAnswers := rfl
@[simp] theorem State.setRst_upAnswers : (s.setRst v).upAnswers = s.upAnswers := rfl
@[simp] theorem State.setRst_drawn : (s.setRst v).drawn = s.drawn := rfl
end

section
variable (s : State) (v : Option Level)
@[simp] theorem State.setDc_cfg : (s.setDc v).cfg = s.cfg := rfl
@[simp] theorem State.setDc_rot : (s.setDc v).rot = s.rot := rfl
@[simp] theorem State.setDc_rstL : (s.setDc v).rstL = s.rstL := rfl
@[simp] theorem State.setDc_dcL : (s.setDc v).dcL = v := rfl
@[simp] theorem State.setDc_life : (s.setDc v).life = s.life := rfl
@[simp] theorem State.setDc_misuse : (s.setDc v).misuse = s.misuse := rfl
@[simp] theorem State.setDc_refused : (s.setDc v).refused = s.refused := rfl
@[simp] theorem State.setDc_mem : (s.setDc v).mem = s.mem := rfl
@[simp] theorem State.setDc_port : (s.setDc v).port = s.port := rfl
@[simp] theorem State.setDc_latched : (s.setDc v).latched = s.latched := rfl
@[simp] theorem State.setDc_seq : (s.setDc v).seq = s.seq := rfl
@[simp] theorem State.setDc_log : (s.setDc v).log = s.log := rfl
@[simp] theorem State.setDc_responses : (s.setDc v).responses = s.responses := rfl
@[simp] theorem State.setDc_busyAnswers : (s.setDc v).busyAnswers = s.busyAnswers := rfl
@[simp] theorem State.setDc_upAnswers : (s.setDc v).upAnswers = s.upAnswers := rfl
@[simp] theorem State.setDc_drawn : (s.setDc v).drawn = s.drawn := rfl
end

section
variable (s : State) (v : Life)
@[simp] theorem State.setLife_cfg : (s.setLife v).cfg = s.cfg := rfl
@[simp] theorem State.setLife_rot : (s.setLife v).rot = s.rot := rfl
@[simp] theorem State.setLife_rstL : (s.setLife v).rstL = s.rstL := rfl
@[simp] theorem State.setLife_dcL : (s.setLife v).dcL = s.dcL := rfl
@[simp] theorem State.setLife_life : (s.setLife v).life = v := rfl
@[simp] theorem State.setLife_misuse : (s.setLife v).misuse = s.misuse := rfl
@[simp] theorem State.setLife_refused : (s.setLife v).refused = s.refused := rfl
@[simp] theorem State.setLife_mem : (s.setLife v).mem = s.mem := rfl
@[simp] theorem State.setLife_port : (s.setLife v).port = s.port := rfl
@[simp] theorem State.setLife_latched : (s.setLife v).latched = s.latched := rfl
@[simp] theorem State.setLife_seq : (s.setLife v).seq = s.seq := rfl
@[simp] theorem State.setLife_log : (s.setLife v).log = s.log := rfl
@[simp] theorem State.setLife_responses : (s.setLife v).responses = s.responses := rfl
@[simp] theorem State.setLife_busyAnswers : (s.setLife v).busyAnswers = s.busyAnswers := rfl
@[simp] theorem State.setLife_upAnswers : (s.setLife v).upAnswers = s.upAnswers := rfl
@[simp] theorem State.setLife_drawn : (s.setLife v).drawn = s.drawn := rfl
end

section
variable (s : State) (v : Bool)
@[simp] theorem State.setMisuse_cfg : (s.setMisuse v).cfg = s.cfg := rfl
@[simp] theorem State.setMisuse_rot : (s.setMisuse v).rot = s.rot := rfl
@[simp] theorem State.setMisuse_rstL : (s.setMisuse v).rstL = s.rstL := rfl
@[simp] theorem State.setMisuse_dcL : (s.setMisuse v).dcL = s.dcL := rfl
@[simp] theorem State.setMisuse_life : (s.setMisuse v).life = s.life := rfl
@[simp] theorem State.setMisuse_misuse : (s.setMisuse v).misuse = v := rfl
@[simp] theorem State.setMisuse_refused : (s.setMisuse v).refused = s.refused := rfl
@[simp] theorem State.setMisuse_mem : (s.setMisuse v).mem = s.mem := rfl
@[simp] theorem State.setMisuse_port : (s.setMisuse v).port = s.port := rfl
@[simp] theorem State.setMisuse_latched : (s.setMisuse v).latched = s.latched := rfl
@[simp] theorem State.setMisuse_seq : (s.setMisuse v).seq = s.seq := rfl
@[simp] theorem State.setMisuse_log : (s.setMisuse v).log = s.log := rfl
@[simp] theorem State.setMisuse_responses : (s.setMisuse v).responses = s.responses := rfl
@[simp] theorem State.setMisuse_busyAnswers : (s.setMisuse v).busyAnswers = s.busyAnswers := rfl
@[simp] theorem State.setMisuse_upAnswers : (s.setMisuse v).upAnswers = s.upAnswers := rfl
@[simp] theorem State.setMisuse_drawn : (s.setMisuse v).drawn = s.drawn := rfl
end

section
variable (s : State) (v : Bool)
@[simp] theorem State.setRefused_cfg : (s.setRefused v).cfg = s.cfg := rfl
@[simp] theorem State.setRefused_rot : (s.setRefused v).rot = s.rot := rfl
@[simp] theorem State.setRefused_rstL : (s.setRefused v).rstL = s.rstL := rfl
@[simp] theorem State.setRefused_dcL : (s.setRefused v).dcL = s.dcL := rfl
@[simp] theorem State.setRefused_life : (s.setRefused v).life = s.life := rfl
@[simp] theorem State.setRefused_misuse : (s.setRefused v).misuse = s.misuse := rfl
@[simp] theorem State.setRefused_refused : (s.setRefused v).refused = v := rfl
@[simp] theorem State.setRefused_mem : (s.setRefused v).mem = s.mem := rfl
@[simp] theorem State.setRefused_port : (s.setRefused v).port = s.port := rfl
@[simp] theorem State.setRefused_latched : (s.setRefused v).latched = s.latched := rfl
@[simp] theorem State.setRefused_seq : (s.setRefused v).seq = s.seq := rfl
@[simp] theorem State.setRefused_log : (s.setRefused v).log = s.log := rfl
@[simp] theorem State.setRefused_responses : (s.setRefused v).responses = s.responses := rfl
@[simp] theorem State.setRefused_busyAnswers : (s.setRefused v).busyAnswers = s.busyAnswers := rfl
@[simp] theorem State.setRefused_upAnswers : (s.setRefused v).upAnswers = s.upAnswers := rfl
@[simp] theorem State.setRefused_drawn : (s.setRefused v).drawn = s.drawn := rfl
end

section
variable (s : State) (v : Memory)
@[simp] theorem State.setMem_cfg : (s.setMem v).cfg = s.cfg := rfl
@[simp] theorem State.setMem_rot : (s.setMem v).rot = s.rot := rfl
@[simp] theorem State.setMem_rstL : (s.setMem v).rstL = s.rstL := rfl
@[simp] theorem State.setMem_dcL : (s.setMem v).dcL = s.dcL := rfl
@[simp] theorem State.setMem_life : (s.setMem v).life = s.life := rfl
@[simp] theorem State.setMem_misuse : (s.setMem v).misuse = s.misuse := rfl
@[simp] theorem State.setMem_refused : (s.setMem v).refused = s.refused := rfl
@[simp] theorem State.setMem_mem : (s.setMem v).mem = v := rfl
@[simp] theorem State.setMem_port : (s.setMem v).port = s.port := rfl
@[simp] theorem State.setMem_latched : (s.setMem v).latched = s.latched := rfl
@[simp] theorem State.setMem_seq : (s.setMem v).seq = s.seq := rfl
@[simp] theorem State.setMem_log : (s.setMem v).log = s.log := rfl
@[simp] theorem State.setMem_responses : (s.setMem v).responses = s.responses := rfl
@[simp] theorem State.setMem_busyAnswers : (s.setMem v).busyAnswers = s.busyAnswers := rfl
@[simp] theorem State.setMem_upAnswers : (s.setMem v).upAnswers = s.upAnswers := rfl
@[simp] theorem State.setMem_drawn : (s.setMem v).drawn = s.drawn := rfl
end

section
variable (s : State) (v : List Request)
@[simp] theorem State.setPort_cfg : (s.setPort v).cfg = s.cfg := rfl
@[simp] theorem State.setPort_rot : (s.setPort v).rot = s.rot := rfl
@[simp] theorem State.setPort_rstL : (s.setPort v).rstL = s.rstL := rfl
@[simp] theorem State.setPort_dcL : (s.setPort v).dcL = s.dcL := rfl
@[simp] theorem State.setPort_life : (s.setPort v).life = s.life := rfl
@[simp] theorem State.setPort_misuse : (s.setPort v).misuse = s.misuse := rfl
@[simp] theorem State.setPort_refused : (s.setPort v).refused = s.refused := rfl
@[simp] theorem State.setPort_mem : (s.setPort v).mem = s.mem := rfl
@[simp] theorem State.setPort_port : (s.setPort v).port = v := rfl
@[simp] theorem State.setPort_latched : (s.setPort v).latched = s.latched := rfl
@[simp] theorem State.setPort_seq : (s.setPort v).seq = s.seq := rfl
@[simp] theorem State.setPort_log : (s.setPort v).log = s.log := rfl
@[simp] theorem State.setPort_responses : (s.setPort v).responses = s.responses := rfl
@[simp] theorem State.setPort_busyAnswers : (s.setPort v).busyAnswers = s.busyAnswers := rfl
@[simp] theorem State.setPort_upAnswers : (s.setPort v).upAnswers = s.upAnswers := rfl
@[simp] theorem State.setPort_drawn : (s.setPort v).drawn = s.drawn := rfl
end

section
variable (s : State) (v : Option Request)
@[simp] theorem State.setLatched_cfg : (s.setLatched v).cfg = s.cfg := rfl
@[simp] theorem State.setLatched_rot : (s.setLatched v).rot = s.rot := rfl
@[simp] theorem State.setLatched_rstL : (s.setLatched v).rstL = s.rstL := rfl
@[simp] theorem State.setLatched_dcL : (s.setLatched v).dcL = s.dcL := rfl
@[simp] theorem State.setLatched_life : (s.setLatched v).life = s.life := rfl
@[simp] theorem State.setLatched_misuse : (s.setLatched v).misuse = s.misuse := rfl
@[simp] theorem State.setLatched_refused : (s.setLatched v).refused = s.refused := rfl
@[simp] theorem State.setLatched_mem : (s.setLatched v).mem = s.mem := rfl
@[simp] theorem State.setLatched_port : (s.setLatched v).port = s.port := rfl
@[simp] theorem State.setLatched_latched : (s.setLatched v).latched = v := rfl
@[simp] theorem State.setLatched_seq : (s.setLatched v).seq = s.seq := rfl
@[simp] theorem State.setLatched_log : (s.setLatched v).log = s.log := rfl
@[simp] theorem State.setLatched_responses : (s.setLatched v).responses = s.responses := rfl
@[simp] theorem State.setLatched_busyAnswers : (s.setLatched v).busyAnswers = s.busyAnswers := rfl
@[simp] theorem State.setLatched_upAnswers : (s.setLatched v).upAnswers = s.upAnswers := rfl
@[simp] theorem State.setLatched_drawn : (s.setLatched v).drawn = s.drawn := rfl
end

section
variable (s : State) (v : List SeqOp)
@[simp] theorem State.setSeq_cfg : (s.setSeq v).cfg = s.cfg := rfl
@[simp] theorem State.setSeq_rot : (s.setSeq v).rot = s.rot := rfl
@[simp] theorem State.setSeq_rstL : (s.setSeq v).rstL = s.rstL := rfl
@[simp] theorem State.setSeq_dcL : (s.setSeq v).dcL = s.dcL := rfl
@[simp] theorem State.setSeq_life : (s.setSeq v).life = s.life := rfl
@[simp] theorem State.setSeq_misuse : (s.setSeq v).misuse = s.misuse := rfl
@[simp] theorem State.setSeq_refused : (s.setSeq v).refused = s.refused := rfl
@[simp] theorem State.setSeq_mem : (s.setSeq v).mem = s.mem := rfl
@[simp] theorem State.setSeq_port : (s.setSeq v).port = s.port := rfl
@[simp] theorem State.setSeq_latched : (s.setSeq v).latched = s.latched := rfl
@[simp] theorem State.setSeq_seq : (s.setSeq v).seq = v := rfl
@[simp] theorem State.setSeq_log : (s.setSeq v).log = s.log := rfl
@[simp] theorem State.setSeq_responses : (s.setSeq v).responses = s.responses := rfl
@[simp] theorem State.setSeq_busyAnswers : (s.setSeq v).busyAnswers = s.busyAnswers := rfl
@[simp] theorem State.setSeq_upAnswers : (s.setSeq v).upAnswers = s.upAnswers := rfl
@[simp] theorem State.setSeq_drawn : (s.setSeq v).drawn = s.drawn := rfl
end

section
variable (s : State) (v : List Act)
@[simp] theorem State.addLog_cfg : (s.addLog v).cfg = s.cfg := rfl
@[simp] theorem State.addLog_rot : (s.addLog v).rot = s.rot := rfl
@[simp] theorem State.addLog_rstL : (s.addLog v).rstL = s.rstL := rfl
@[simp] theorem State.addLog_dcL : (s.addLog v).dcL = s.dcL := rfl
@[simp] theorem State.addLog_life : (s.addLog v).life = s.life := rfl
@[simp] theorem State.addLog_misuse : (s.addLog v).misuse = s.misuse := rfl
@[simp] theorem State.addLog_refused : (s.addLog v).refused = s.refused := rfl
@[simp] theorem State.addLog_mem : (s.addLog v).mem = s.mem := rfl
@[simp] theorem State.addLog_port : (s.addLog v).port = s.port := rfl
@[simp] theorem State.addLog_latched : (s.addLog v).latched = s.latched := rfl
@[simp] theorem State.addLog_seq : (s.addLog v).seq = s.seq := rfl
@[simp] theorem State.addLog_log : (s.addLog v).log = s.log ++ v := rfl
@[simp] theorem State.addLog_responses : (s.addLog v).responses = s.responses := rfl
@[simp] theorem State.addLog_busyAnswers : (s.addLog v).busyAnswers = s.busyAnswers := rfl
@[simp] theorem State.addLog_upAnswers : (s.addLog v).upAnswers = s.upAnswers := rfl
@[simp] theorem State.addLog_drawn : (s.addLog v).drawn = s.drawn := rfl
end

section
variable (s : State) (v : Response)
@[simp] theorem State.addResponse_cfg : (s.addResponse v).cfg = s.cfg := rfl
@[simp] theorem State.addResponse_rot : (s.addResponse v).rot = s.rot := rfl
@[simp] theorem State.addResponse_rstL : (s.addResponse v).rstL = s.rstL := rfl
@[simp] theorem State.addResponse_dcL : (s.addResponse v).dcL = s.dcL := rfl
@[simp] theorem State.addResponse_life : (s.addResponse v).life = s.life := rfl
@[simp] theorem State.addResponse_misuse : (s.addResponse v).misuse = s.misuse := rfl
@[simp] theorem State.addResponse_refused : (s.addResponse v).refused = s.refused := rfl
@[simp] theorem State.addResponse_mem : (s.addResponse v).mem = s.mem := rfl
@[simp] theorem State.addResponse_port : (s.addResponse v).port = s.port := rfl
@[simp] theorem State.addResponse_latched : (s.addResponse v).latched = s.latched := rfl
@[simp] theorem State.addResponse_seq : (s.addResponse v).seq = s.seq := rfl
@[simp] theorem State.addResponse_log : (s.addResponse v).log = s.log := rfl
@[simp] theorem State.addResponse_responses : (s.addResponse v).responses = s.responses ++ [v] := rfl
@[simp] theorem State.addResponse_busyAnswers : (s.addResponse v).busyAnswers = s.busyAnswers := rfl
@[simp] theorem State.addResponse_upAnswers : (s.addResponse v).upAnswers = s.upAnswers := rfl
@[simp] theorem State.addResponse_drawn : (s.addResponse v).drawn = s.drawn := rfl
end

section
variable (s : State) (v : List Level)
@[simp] theorem State.setBusyAnswers_cfg : (s.setBusyAnswers v).cfg = s.cfg := rfl
@[simp] theorem State.setBusyAnswers_rot : (s.setBusyAnswers v).rot = s.rot := rfl
@[simp] theorem State.setBusyAnswers_rstL : (s.setBusyAnswers v).rstL = s.rstL := rfl
@[simp] theorem State.setBusyAnswers_dcL : (s.setBusyAnswers v).dcL = s.dcL := rfl
@[simp] theorem State.setBusyAnswers_life : (s.setBusyAnswers v).life = s.life := rfl
@[simp] theorem State.setBusyAnswers_misuse : (s.setBusyAnswers v).misuse = s.misuse := rfl
@[simp] theorem State.setBusyAnswers_refused : (s.setBusyAnswers v).refused = s.refused := rfl
@[simp] theorem State.setBusyAnswers_mem : (s.setBusyAnswers v).mem = s.mem := rfl
@[simp] theorem State.setBusyAnswers_port : (s.setBusyAnswers v).port = s.port := rfl
@[simp] theorem State.setBusyAnswers_latched : (s.setBusyAnswers v).latched = s.latched := rfl
@[simp] theorem State.setBusyAnswers_seq : (s.setBusyAnswers v).seq = s.seq := rfl
@[simp] theorem State.setBusyAnswers_log : (s.setBusyAnswers v).log = s.log := rfl
@[simp] theorem State.setBusyAnswers_responses : (s.setBusyAnswers v).responses = s.responses := rfl
@[simp] theorem State.setBusyAnswers_busyAnswers : (s.setBusyAnswers v).busyAnswers = v := rfl
@[simp] theorem State.setBusyAnswers_upAnswers : (s.setBusyAnswers v).upAnswers = s.upAnswers := rfl
@[simp] theorem State.setBusyAnswers_drawn : (s.setBusyAnswers v).drawn = s.drawn := rfl
end

section
variable (s : State) (v : List UpResult)
@[simp] theorem State.setUpAnswers_cfg : (s.setUpAnswers v).cfg = s.cfg := rfl
@[simp] theorem State.setUpAnswers_rot : (s.setUpAnswers v).rot = s.rot := rfl
@[simp] theorem State.setUpAnswers_rstL : (s.setUpAnswers v).rstL = s.rstL := rfl
@[simp] theorem State.setUpAnswers_dcL : (s.setUpAnswers v).dcL = s.dcL := rfl
@[simp] theorem State.setUpAnswers_life : (s.setUpAnswers v).life = s.life := rfl
@[simp] theorem State.setUpAnswers_misuse : (s.setUpAnswers v).misuse = s.misuse := rfl
@[simp] theorem State.setUpAnswers_refused : (s.setUpAnswers v).refused = s.refused := rfl
@[simp] theorem State.setUpAnswers_mem : (s.setUpAnswers v).mem = s.mem := rfl
@[simp] theorem State.setUpAnswers_port : (s.setUpAnswers v).port = s.port := rfl
@[simp] theorem State.setUpAnswers_latched : (s.setUpAnswers v).latched = s.latched := rfl
@[simp] theorem State.setUpAnswers_seq : (s.setUpAnswers v).seq = s.seq := rfl
@[simp] theorem State.setUpAnswers_log : (s.setUpAnswers v).log = s.log := rfl
@[simp] theorem State.setUpAnswers_responses : (s.setUpAnswers v).responses = s.responses := rfl
@[simp] theorem State.setUpAnswers_busyAnswers : (s.setUpAnswers v).busyAnswers = s.busyAnswers := rfl
@[simp] theorem State.setUpAnswers_upAnswers : (s.setUpAnswers v).upAnswers = v := rfl
@[simp] theorem State.setUpAnswers_drawn : (s.setUpAnswers v).drawn = s.drawn := rfl
end

section
variable (s : State) (v : Nat)
@[simp] theorem State.setDrawn_cfg : (s.setDrawn v).cfg = s.cfg := rfl
@[simp] theorem State.setDrawn_rot : (s.setDrawn v).rot = s.rot := rfl
@[simp] theorem State.setDrawn_rstL : (s.setDrawn v).rstL = s.rstL := rfl
@[simp] theorem State.setDrawn_dcL : (s.setDrawn v).dcL = s.dcL := rfl
@[simp] theorem State.setDrawn_life : (s.setDrawn v).life = s.life := rfl
@[simp] theorem State.setDrawn_misuse : (s.setDrawn v).misuse = s.misuse := rfl
@[simp] theorem State.setDrawn_refused : (s.setDrawn v).refused = s.refused := rfl
@[simp] theorem State.setDrawn_mem : (s.setDrawn v).mem = s.mem := rfl
@[simp] theorem State.setDrawn_port : (s.setDrawn v).port = s.port := rfl
@[simp] theorem State.setDrawn_latched : (s.setDrawn v).latched = s.latched := rfl
@[simp] theorem State.setDrawn_seq : (s.setDrawn v).seq = s.seq := rfl
@[simp] theorem State.setDrawn_log : (s.setDrawn v).log = s.log := rfl
@[simp] theorem State.setDrawn_responses : (s.setDrawn v).responses = s.responses := rfl
@[simp] theorem State.setDrawn_busyAnswers : (s.setDrawn v).busyAnswers = s.busyAnswers := rfl
@[simp] theorem State.setDrawn_upAnswers : (s.setDrawn v).upAnswers = s.upAnswers := rfl
@[simp] theorem State.setDrawn_drawn : (s.setDrawn v).drawn = v := rfl
end

@[simp] theorem State.addLog_addLog (s : State) (a b : List Act) :
    (s.addLog a).addLog b = s.addLog (a ++ b) := by simp [State.addLog]

end Sys2Proof.Machine
end

