-- ==== Sys2Proof/Laws/Fields.lean ====
section
/-! SUPPORT. One lemma per field and per shared operation (what the operation writes and what it leaves), true by rfl. -/

namespace Sys2Proof.Machine

open Sys2Proof

section
variable (s : State) (e : Event)
@[simp] theorem emit_cfg : (emit e s).cfg = s.cfg := rfl
@[simp] theorem emit_rot : (emit e s).rot = s.rot := rfl
@[simp] theorem emit_rstL : (emit e s).rstL = s.rstL := rfl
@[simp] theorem emit_dcL : (emit e s).dcL = s.dcL := rfl
@[simp] theorem emit_life : (emit e s).life = s.life := rfl
@[simp] theorem emit_misuse : (emit e s).misuse = s.misuse := rfl
@[simp] theorem emit_refused : (emit e s).refused = s.refused := rfl
@[simp] theorem emit_mem : (emit e s).mem = s.mem := rfl
@[simp] theorem emit_port : (emit e s).port = s.port := rfl
@[simp] theorem emit_latched : (emit e s).latched = s.latched := rfl
@[simp] theorem emit_seq : (emit e s).seq = s.seq := rfl
@[simp] theorem emit_log : (emit e s).log = s.log ++ [.ev e] := rfl
@[simp] theorem emit_responses : (emit e s).responses = s.responses := rfl
@[simp] theorem emit_busyAnswers : (emit e s).busyAnswers = s.busyAnswers := rfl
@[simp] theorem emit_upAnswers : (emit e s).upAnswers = s.upAnswers := rfl
@[simp] theorem emit_drawn : (emit e s).drawn = s.drawn := rfl
end

section
variable (s : State) (f : Frame)
@[simp] theorem sendFrame_cfg : (sendFrame f s).cfg = s.cfg := rfl
@[simp] theorem sendFrame_rot : (sendFrame f s).rot = s.rot := rfl
@[simp] theorem sendFrame_rstL : (sendFrame f s).rstL = s.rstL := rfl
@[simp] theorem sendFrame_dcL : (sendFrame f s).dcL = some (frameLevel s.cfg f) := rfl
@[simp] theorem sendFrame_life : (sendFrame f s).life = s.life := rfl
@[simp] theorem sendFrame_misuse : (sendFrame f s).misuse = s.misuse := rfl
@[simp] theorem sendFrame_refused : (sendFrame f s).refused = s.refused := rfl
@[simp] theorem sendFrame_mem : (sendFrame f s).mem = s.mem := rfl
@[simp] theorem sendFrame_port : (sendFrame f s).port = s.port := rfl
@[simp] theorem sendFrame_latched : (sendFrame f s).latched = s.latched := rfl
@[simp] theorem sendFrame_seq : (sendFrame f s).seq = s.seq := rfl
@[simp] theorem sendFrame_log : (sendFrame f s).log = s.log ++ [.ev (.setPin .dc (frameLevel s.cfg f))] ++ [.ev (.xfer (frameByte f))] := rfl
@[simp] theorem sendFrame_responses : (sendFrame f s).responses = s.responses := rfl
@[simp] theorem sendFrame_busyAnswers : (sendFrame f s).busyAnswers = s.busyAnswers := rfl
@[simp] theorem sendFrame_upAnswers : (sendFrame f s).upAnswers = s.upAnswers := rfl
@[simp] theorem sendFrame_drawn : (sendFrame f s).drawn = s.drawn := rfl
end

section
variable (s : State) 
@[simp] theorem takeBusy_cfg : (takeBusy s).cfg = s.cfg := rfl
@[simp] theorem takeBusy_rot : (takeBusy s).rot = s.rot := rfl
@[simp] theorem takeBusy_rstL : (takeBusy s).rstL = s.rstL := rfl
@[simp] theorem takeBusy_dcL : (takeBusy s).dcL = s.dcL := rfl
@[simp] theorem takeBusy_life : (takeBusy s).life = s.life := rfl
@[simp] theorem takeBusy_misuse : (takeBusy s).misuse = s.misuse := rfl
@[simp] theorem takeBusy_refused : (takeBusy s).refused = s.refused := rfl
@[simp] theorem takeBusy_mem : (takeBusy s).mem = s.mem := rfl
@[simp] theorem takeBusy_port : (takeBusy s).port = s.port := rfl
@[simp] theorem takeBusy_latched : (takeBusy s).latched = s.latched := rfl
@[simp] theorem takeBusy_seq : (takeBusy s).seq = s.seq := rfl
@[simp] theorem takeBusy_log : (takeBusy s).log = s.log := rfl
@[simp] theorem takeBusy_responses : (takeBusy s).responses = s.responses := rfl
@[simp] theorem takeBusy_busyAnswers : (takeBusy s).busyAnswers = s.busyAnswers.tail := rfl
@[simp] theorem takeBusy_upAnswers : (takeBusy s).upAnswers = s.upAnswers := rfl
@[simp] theorem takeBusy_drawn : (takeBusy s).drawn = (if s.busyAnswers = [] then s.drawn + 1 else s.drawn) := rfl
end

section
variable (s : State) 
@[simp] theorem sampleBusy_cfg : (sampleBusy s).cfg = s.cfg := rfl
@[simp] theorem sampleBusy_rot : (sampleBusy s).rot = s.rot := rfl
@[simp] theorem sampleBusy_rstL : (sampleBusy s).rstL = s.rstL := rfl
@[simp] theorem sampleBusy_dcL : (sampleBusy s).dcL = s.dcL := rfl
@[simp] theorem sampleBusy_life : (sampleBusy s).life = s.life := rfl
@[simp] theorem sampleBusy_misuse : (sampleBusy s).misuse = s.misuse := rfl
@[simp] theorem sampleBusy_refused : (sampleBusy s).refused = s.refused := rfl
@[simp] theorem sampleBusy_mem : (sampleBusy s).mem = s.mem := rfl
@[simp] theorem sampleBusy_port : (sampleBusy s).port = s.port := rfl
@[simp] theorem sampleBusy_latched : (sampleBusy s).latched = s.latched := rfl
@[simp] theorem sampleBusy_seq : (sampleBusy s).seq = s.seq := rfl
@[simp] theorem sampleBusy_log : (sampleBusy s).log = s.log ++ [.ev (.sample (busyLevel s))] := rfl
@[simp] theorem sampleBusy_responses : (sampleBusy s).responses = s.responses := rfl
@[simp] theorem sampleBusy_busyAnswers : (sampleBusy s).busyAnswers = s.busyAnswers.tail := rfl
@[simp] theorem sampleBusy_upAnswers : (sampleBusy s).upAnswers = s.upAnswers := rfl
@[simp] theorem sampleBusy_drawn : (sampleBusy s).drawn = (if s.busyAnswers = [] then s.drawn + 1 else s.drawn) := rfl
end

section
variable (s : State) 
@[simp] theorem busyPoll_cfg : (busyPoll s).cfg = s.cfg := rfl
@[simp] theorem busyPoll_rot : (busyPoll s).rot = s.rot := rfl
@[simp] theorem busyPoll_rstL : (busyPoll s).rstL = s.rstL := rfl
@[simp] theorem busyPoll_dcL : (busyPoll s).dcL = s.dcL := rfl
@[simp] theorem busyPoll_life : (busyPoll s).life = s.life := rfl
@[simp] theorem busyPoll_misuse : (busyPoll s).misuse = s.misuse := rfl
@[simp] theorem busyPoll_refused : (busyPoll s).refused = s.refused := rfl
@[simp] theorem busyPoll_mem : (busyPoll s).mem = s.mem := rfl
@[simp] theorem busyPoll_port : (busyPoll s).port = s.port := rfl
@[simp] theorem busyPoll_latched : (busyPoll s).latched = s.latched := rfl
@[simp] theorem busyPoll_seq : (busyPoll s).seq = s.seq := rfl
@[simp] theorem busyPoll_log : (busyPoll s).log = s.log ++ [.ev (.sample (busyLevel s))] ++ [.ev (.delay s.cfg.busyPollMs)] := rfl
@[simp] theorem busyPoll_responses : (busyPoll s).responses = s.responses := rfl
@[simp] theorem busyPoll_busyAnswers : (busyPoll s).busyAnswers = s.busyAnswers.tail := rfl
@[simp] theorem busyPoll_upAnswers : (busyPoll s).upAnswers = s.upAnswers := rfl
@[simp] theorem busyPoll_drawn : (busyPoll s).drawn = (if s.busyAnswers = [] then s.drawn + 1 else s.drawn) := rfl
end

section
variable (s : State) 
@[simp] theorem takeUp_cfg : (takeUp s).cfg = s.cfg := rfl
@[simp] theorem takeUp_rot : (takeUp s).rot = s.rot := rfl
@[simp] theorem takeUp_rstL : (takeUp s).rstL = s.rstL := rfl
@[simp] theorem takeUp_dcL : (takeUp s).dcL = s.dcL := rfl
@[simp] theorem takeUp_life : (takeUp s).life = s.life := rfl
@[simp] theorem takeUp_misuse : (takeUp s).misuse = s.misuse := rfl
@[simp] theorem takeUp_refused : (takeUp s).refused = s.refused := rfl
@[simp] theorem takeUp_mem : (takeUp s).mem = s.mem := rfl
@[simp] theorem takeUp_port : (takeUp s).port = s.port := rfl
@[simp] theorem takeUp_latched : (takeUp s).latched = s.latched := rfl
@[simp] theorem takeUp_seq : (takeUp s).seq = s.seq := rfl
@[simp] theorem takeUp_log : (takeUp s).log = s.log := rfl
@[simp] theorem takeUp_responses : (takeUp s).responses = s.responses := rfl
@[simp] theorem takeUp_busyAnswers : (takeUp s).busyAnswers = s.busyAnswers := rfl
@[simp] theorem takeUp_upAnswers : (takeUp s).upAnswers = s.upAnswers.tail := rfl
@[simp] theorem takeUp_drawn : (takeUp s).drawn = (if s.upAnswers = [] then s.drawn + 1 else s.drawn) := rfl
end

section
variable (s : State) 
@[simp] theorem bringUp_cfg : (bringUp s).cfg = s.cfg := rfl
@[simp] theorem bringUp_rot : (bringUp s).rot = s.rot := rfl
@[simp] theorem bringUp_rstL : (bringUp s).rstL = s.rstL := rfl
@[simp] theorem bringUp_dcL : (bringUp s).dcL = s.dcL := rfl
@[simp] theorem bringUp_life : (bringUp s).life = s.life := rfl
@[simp] theorem bringUp_misuse : (bringUp s).misuse = s.misuse := rfl
@[simp] theorem bringUp_refused : (bringUp s).refused = s.refused := rfl
@[simp] theorem bringUp_mem : (bringUp s).mem = s.mem := rfl
@[simp] theorem bringUp_port : (bringUp s).port = s.port := rfl
@[simp] theorem bringUp_latched : (bringUp s).latched = s.latched := rfl
@[simp] theorem bringUp_seq : (bringUp s).seq = s.seq := rfl
@[simp] theorem bringUp_log : (bringUp s).log = s.log ++ [.ev (.bringUp (upResult s))] := rfl
@[simp] theorem bringUp_responses : (bringUp s).responses = s.responses := rfl
@[simp] theorem bringUp_busyAnswers : (bringUp s).busyAnswers = s.busyAnswers := rfl
@[simp] theorem bringUp_upAnswers : (bringUp s).upAnswers = s.upAnswers.tail := rfl
@[simp] theorem bringUp_drawn : (bringUp s).drawn = (if s.upAnswers = [] then s.drawn + 1 else s.drawn) := rfl
end

section
variable (s : State) (l : Level)
@[simp] theorem driveRst_cfg : (driveRst l s).cfg = s.cfg := rfl
@[simp] theorem driveRst_rot : (driveRst l s).rot = s.rot := rfl
@[simp] theorem driveRst_rstL : (driveRst l s).rstL = some l := rfl
@[simp] theorem driveRst_dcL : (driveRst l s).dcL = s.dcL := rfl
@[simp] theorem driveRst_life : (driveRst l s).life = s.life := rfl
@[simp] theorem driveRst_misuse : (driveRst l s).misuse = s.misuse := rfl
@[simp] theorem driveRst_refused : (driveRst l s).refused = s.refused := rfl
@[simp] theorem driveRst_mem : (driveRst l s).mem = s.mem := rfl
@[simp] theorem driveRst_port : (driveRst l s).port = s.port := rfl
@[simp] theorem driveRst_latched : (driveRst l s).latched = s.latched := rfl
@[simp] theorem driveRst_seq : (driveRst l s).seq = s.seq := rfl
@[simp] theorem driveRst_log : (driveRst l s).log = s.log ++ [.ev (.setPin .rst l)] := rfl
@[simp] theorem driveRst_responses : (driveRst l s).responses = s.responses := rfl
@[simp] theorem driveRst_busyAnswers : (driveRst l s).busyAnswers = s.busyAnswers := rfl
@[simp] theorem driveRst_upAnswers : (driveRst l s).upAnswers = s.upAnswers := rfl
@[simp] theorem driveRst_drawn : (driveRst l s).drawn = s.drawn := rfl
end

section
variable (s : State) (a : Nat)
@[simp] theorem sendFromMem_cfg : (sendFromMem a s).cfg = s.cfg := rfl
@[simp] theorem sendFromMem_rot : (sendFromMem a s).rot = s.rot := rfl
@[simp] theorem sendFromMem_rstL : (sendFromMem a s).rstL = s.rstL := rfl
@[simp] theorem sendFromMem_dcL : (sendFromMem a s).dcL = some s.cfg.dcCmdLevel.other := rfl
@[simp] theorem sendFromMem_life : (sendFromMem a s).life = s.life := rfl
@[simp] theorem sendFromMem_misuse : (sendFromMem a s).misuse = s.misuse := rfl
@[simp] theorem sendFromMem_refused : (sendFromMem a s).refused = s.refused := rfl
@[simp] theorem sendFromMem_mem : (sendFromMem a s).mem = s.mem := rfl
@[simp] theorem sendFromMem_port : (sendFromMem a s).port = s.port := rfl
@[simp] theorem sendFromMem_latched : (sendFromMem a s).latched = s.latched := rfl
@[simp] theorem sendFromMem_seq : (sendFromMem a s).seq = s.seq := rfl
@[simp] theorem sendFromMem_log : (sendFromMem a s).log = s.log ++ [.rd a (readByte s.mem a)] ++ [.ev (.setPin .dc s.cfg.dcCmdLevel.other)] ++ [.ev (.xfer (readByte s.mem a))] := rfl
@[simp] theorem sendFromMem_responses : (sendFromMem a s).responses = s.responses := rfl
@[simp] theorem sendFromMem_busyAnswers : (sendFromMem a s).busyAnswers = s.busyAnswers := rfl
@[simp] theorem sendFromMem_upAnswers : (sendFromMem a s).upAnswers = s.upAnswers := rfl
@[simp] theorem sendFromMem_drawn : (sendFromMem a s).drawn = s.drawn := rfl
end

section
variable (s : State) (a : Nat) (v : Byte)
@[simp] theorem storeByte_cfg : (storeByte a v s).cfg = s.cfg := rfl
@[simp] theorem storeByte_rot : (storeByte a v s).rot = s.rot := rfl
@[simp] theorem storeByte_rstL : (storeByte a v s).rstL = s.rstL := rfl
@[simp] theorem storeByte_dcL : (storeByte a v s).dcL = s.dcL := rfl
@[simp] theorem storeByte_life : (storeByte a v s).life = s.life := rfl
@[simp] theorem storeByte_misuse : (storeByte a v s).misuse = s.misuse := rfl
@[simp] theorem storeByte_refused : (storeByte a v s).refused = s.refused := rfl
@[simp] theorem storeByte_mem : (storeByte a v s).mem = writeByte s.mem a v := rfl
@[simp] theorem storeByte_port : (storeByte a v s).port = s.port := rfl
@[simp] theorem storeByte_latched : (storeByte a v s).latched = s.latched := rfl
@[simp] theorem storeByte_seq : (storeByte a v s).seq = s.seq := rfl
@[simp] theorem storeByte_log : (storeByte a v s).log = s.log ++ [.wr a v] := rfl
@[simp] theorem storeByte_responses : (storeByte a v s).responses = s.responses := rfl
@[simp] theorem storeByte_busyAnswers : (storeByte a v s).busyAnswers = s.busyAnswers := rfl
@[simp] theorem storeByte_upAnswers : (storeByte a v s).upAnswers = s.upAnswers := rfl
@[simp] theorem storeByte_drawn : (storeByte a v s).drawn = s.drawn := rfl
end

section
variable (s : State) (a : Nat) (m : Byte) (col : Bool)
@[simp] theorem plotAt_cfg : (plotAt a m col s).cfg = s.cfg := rfl
@[simp] theorem plotAt_rot : (plotAt a m col s).rot = s.rot := rfl
@[simp] theorem plotAt_rstL : (plotAt a m col s).rstL = s.rstL := rfl
@[simp] theorem plotAt_dcL : (plotAt a m col s).dcL = s.dcL := rfl
@[simp] theorem plotAt_life : (plotAt a m col s).life = s.life := rfl
@[simp] theorem plotAt_misuse : (plotAt a m col s).misuse = s.misuse := rfl
@[simp] theorem plotAt_refused : (plotAt a m col s).refused = s.refused := rfl
@[simp] theorem plotAt_mem : (plotAt a m col s).mem = writeByte s.mem a (plotByte (readByte s.mem a) m col) := rfl
@[simp] theorem plotAt_port : (plotAt a m col s).port = s.port := rfl
@[simp] theorem plotAt_latched : (plotAt a m col s).latched = s.latched := rfl
@[simp] theorem plotAt_seq : (plotAt a m col s).seq = s.seq := rfl
@[simp] theorem plotAt_log : (plotAt a m col s).log = s.log ++ [.rd a (readByte s.mem a)] ++ [.wr a (plotByte (readByte s.mem a) m col)] := rfl
@[simp] theorem plotAt_responses : (plotAt a m col s).responses = s.responses := rfl
@[simp] theorem plotAt_busyAnswers : (plotAt a m col s).busyAnswers = s.busyAnswers := rfl
@[simp] theorem plotAt_upAnswers : (plotAt a m col s).upAnswers = s.upAnswers := rfl
@[simp] theorem plotAt_drawn : (plotAt a m col s).drawn = s.drawn := rfl
end

section
variable (s : State) 
@[simp] theorem markMisuse_cfg : (markMisuse s).cfg = s.cfg := rfl
@[simp] theorem markMisuse_rot : (markMisuse s).rot = s.rot := rfl
@[simp] theorem markMisuse_rstL : (markMisuse s).rstL = s.rstL := rfl
@[simp] theorem markMisuse_dcL : (markMisuse s).dcL = s.dcL := rfl
@[simp] theorem markMisuse_life : (markMisuse s).life = s.life := rfl
@[simp] theorem markMisuse_misuse : (markMisuse s).misuse = (s.misuse || decide (s.life ≠ .initialized)) := rfl
@[simp] theorem markMisuse_refused : (markMisuse s).refused = s.refused := rfl
@[simp] theorem markMisuse_mem : (markMisuse s).mem = s.mem := rfl
@[simp] theorem markMisuse_port : (markMisuse s).port = s.port := rfl
@[simp] theorem markMisuse_latched : (markMisuse s).latched = s.latched := rfl
@[simp] theorem markMisuse_seq : (markMisuse s).seq = s.seq := rfl
@[simp] theorem markMisuse_log : (markMisuse s).log = s.log := rfl
@[simp] theorem markMisuse_responses : (markMisuse s).responses = s.responses := rfl
@[simp] theorem markMisuse_busyAnswers : (markMisuse s).busyAnswers = s.busyAnswers := rfl
@[simp] theorem markMisuse_upAnswers : (markMisuse s).upAnswers = s.upAnswers := rfl
@[simp] theorem markMisuse_drawn : (markMisuse s).drawn = s.drawn := rfl
end

section
variable (s : State) 
@[simp] theorem refuse_cfg : (refuse s).cfg = s.cfg := rfl
@[simp] theorem refuse_rot : (refuse s).rot = s.rot := rfl
@[simp] theorem refuse_rstL : (refuse s).rstL = s.rstL := rfl
@[simp] theorem refuse_dcL : (refuse s).dcL = s.dcL := rfl
@[simp] theorem refuse_life : (refuse s).life = s.life := rfl
@[simp] theorem refuse_misuse : (refuse s).misuse = s.misuse := rfl
@[simp] theorem refuse_refused : (refuse s).refused = true := rfl
@[simp] theorem refuse_mem : (refuse s).mem = s.mem := rfl
@[simp] theorem refuse_port : (refuse s).port = s.port := rfl
@[simp] theorem refuse_latched : (refuse s).latched = s.latched := rfl
@[simp] theorem refuse_seq : (refuse s).seq = s.seq := rfl
@[simp] theorem refuse_log : (refuse s).log = s.log := rfl
@[simp] theorem refuse_responses : (refuse s).responses = s.responses := rfl
@[simp] theorem refuse_busyAnswers : (refuse s).busyAnswers = s.busyAnswers := rfl
@[simp] theorem refuse_upAnswers : (refuse s).upAnswers = s.upAnswers := rfl
@[simp] theorem refuse_drawn : (refuse s).drawn = s.drawn := rfl
end

section
variable (s : State) 
@[simp] theorem endRequest_cfg : (endRequest s).cfg = s.cfg := rfl
@[simp] theorem endRequest_rot : (endRequest s).rot = s.rot := rfl
@[simp] theorem endRequest_rstL : (endRequest s).rstL = s.rstL := rfl
@[simp] theorem endRequest_dcL : (endRequest s).dcL = s.dcL := rfl
@[simp] theorem endRequest_life : (endRequest s).life = s.life := rfl
@[simp] theorem endRequest_misuse : (endRequest s).misuse = s.misuse := rfl
@[simp] theorem endRequest_refused : (endRequest s).refused = s.refused := rfl
@[simp] theorem endRequest_mem : (endRequest s).mem = s.mem := rfl
@[simp] theorem endRequest_port : (endRequest s).port = s.port := rfl
@[simp] theorem endRequest_latched : (endRequest s).latched = none := rfl
@[simp] theorem endRequest_seq : (endRequest s).seq = [] := rfl
@[simp] theorem endRequest_log : (endRequest s).log = s.log := rfl
@[simp] theorem endRequest_responses : (endRequest s).responses = s.responses := rfl
@[simp] theorem endRequest_busyAnswers : (endRequest s).busyAnswers = s.busyAnswers := rfl
@[simp] theorem endRequest_upAnswers : (endRequest s).upAnswers = s.upAnswers := rfl
@[simp] theorem endRequest_drawn : (endRequest s).drawn = s.drawn := rfl
end

end Sys2Proof.Machine
end

