-- ==== Sys2Proof/Laws/Memory.lean ====
section
/-! SUPPORT. The laws of host memory: reading what was written, leaving every other byte alone, keeping the canonical form. -/

namespace Sys2Proof.Machine

open Sys2Proof

@[simp] theorem readByte_nil (a : Nat) : readByte [] a = unlistedByte := rfl

@[simp] theorem Memory.wf_nil : Memory.wf [] = true := rfl

theorem Memory.wf_cons (a : Nat) (v : Byte) (m : Memory) :
    Memory.wf ((a, v) :: m) = true ↔
      v ≠ unlistedByte ∧ (∀ c ∈ m, a < c.1) ∧ Memory.wf m = true := by
  simp [Memory.wf, and_assoc]

/-- An address below every listed one reads as unlisted. -/
theorem readByte_of_lt (m : Memory) (a : Nat) (h : ∀ c ∈ m, a < c.1) :
    readByte m a = unlistedByte := by
  induction m with
  | nil => rfl
  | cons c m ih =>
    have hc := h c (by simp)
    have : a ≠ c.1 := by omega
    simp [readByte, this, ih fun d hd => h d (by simp [hd])]

/-- A write lists no address but its own and those listed before. -/
theorem mem_writeByte (m : Memory) (a : Nat) (v : Byte) (c : Host.Cell) (h : c ∈ writeByte m a v) :
    c ∈ m ∨ c = (a, v) := by
  induction m with
  | nil =>
    simp only [writeByte] at h
    split at h <;> simp_all
  | cons d m ih =>
    simp only [writeByte] at h
    split at h
    · split at h
      · exact .inl h
      · rcases List.mem_cons.1 h with h | h
        · exact .inr h
        · exact .inl h
    · split at h
      · split at h
        · exact .inl (List.mem_cons_of_mem _ h)
        · rcases List.mem_cons.1 h with h | h
          · exact .inr h
          · exact .inl (List.mem_cons_of_mem _ h)
      · rcases List.mem_cons.1 h with h | h
        · exact .inl (h ▸ List.mem_cons_self)
        · rcases ih h with h | h
          · exact .inl (List.mem_cons_of_mem _ h)
          · exact .inr h

/-- A write keeps the canonical form. -/
theorem writeByte_wf (m : Memory) (a : Nat) (v : Byte) (h : m.wf = true) :
    Memory.wf (writeByte m a v) = true := by
  induction m with
  | nil =>
    simp only [writeByte]
    split
    · rfl
    · exact (Memory.wf_cons a v []).2 ⟨‹_›, by simp, rfl⟩
  | cons d m ih =>
    obtain ⟨b, w⟩ := d
    obtain ⟨hw, hb, hm⟩ := (Memory.wf_cons b w m).1 h
    simp only [writeByte]
    split
    · split
      · exact h
      · refine (Memory.wf_cons _ _ _).2 ⟨‹_›, fun c hc => ?_, h⟩
        rcases List.mem_cons.1 hc with hc | hc
        · rw [hc]; assumption
        · exact lt_trans ‹a < b› (hb c hc)
    · split
      · subst_vars
        split
        · exact hm
        · exact (Memory.wf_cons _ _ _).2 ⟨‹_›, hb, hm⟩
      · refine (Memory.wf_cons _ _ _).2 ⟨hw, fun c hc => ?_, ih hm⟩
        rcases mem_writeByte m a v c hc with hc | hc
        · exact hb c hc
        · rw [hc]
          show b < a
          omega

/-- Reading after a write: the byte written at its address, every other byte as before. -/
theorem readByte_writeByte (m : Memory) (a x : Nat) (v : Byte) (h : m.wf = true) :
    readByte (writeByte m a v) x = if x = a then v else readByte m x := by
  induction m with
  | nil =>
    simp only [writeByte]
    split <;> split <;> simp_all [readByte]
  | cons d m ih =>
    obtain ⟨b, w⟩ := d
    obtain ⟨-, hb, hm⟩ := (Memory.wf_cons b w m).1 h
    simp only [writeByte]
    split
    · rename_i hab
      split
      · split
        · subst_vars
          have hx : x ≠ b := by omega
          simp [readByte, hx, readByte_of_lt m x fun c hc => lt_trans hab (hb c hc)]
        · rfl
      · simp only [readByte]
    · split
      · subst_vars
        split
        · split
          · subst_vars; exact readByte_of_lt m _ hb
          · simp only [readByte, if_neg ‹¬ x = _›]
        · simp only [readByte]
          split <;> rfl
      · simp only [readByte, ih hm]
        split
        · split
          · omega
          · rfl
        · rfl

@[simp] theorem readByte_writeByte_self (m : Memory) (a : Nat) (v : Byte) (h : m.wf = true) :
    readByte (writeByte m a v) a = v := by simp [readByte_writeByte, h]

theorem readByte_writeByte_other (m : Memory) (a x : Nat) (v : Byte) (h : m.wf = true) (hx : x ≠ a) :
    readByte (writeByte m a v) x = readByte m x := by simp [readByte_writeByte, h, hx]

end Sys2Proof.Machine
end

