-- ==== Sys2Proof/Laws/Ops.lean ====
section
/-! SUPPORT. What each shared operation does, said once: frames, the environment's answers, the wait, memory operations. -/

namespace Sys2Proof.Machine

open Sys2Proof Safety

/-- SEND_CMD and SEND_DATA in the terms claims use. -/
theorem sendFrame_eq (f : Frame) (s : State) :
    sendFrame f s = (s.addLog (frameActs s.cfg f)).setDc (some (frameLevel s.cfg f)) := by
  cases f <;> simp [sendFrame, emit, frameActs, frameLevel, frameByte]

/-- Taking one answer is standing one answer later. -/
theorem takeBusy_eq (s : State) : takeBusy s = afterSamples 1 s := by
  cases h : s.busyAnswers <;>
    simp [takeBusy, afterSamples, State.setBusyAnswers, State.setDrawn, h]

theorem busyLevel_eq (s : State) : busyLevel s = answerAt s 0 := by
  cases h : s.busyAnswers <;> simp [busyLevel, answerAt, h]

@[simp] theorem afterSamples_zero (s : State) : afterSamples 0 s = s := by simp [afterSamples]

theorem afterSamples_afterSamples (m n : Nat) (s : State) :
    afterSamples m (afterSamples n s) = afterSamples (n + m) s := by
  simp only [afterSamples, List.drop_drop, List.length_drop]
  congr 1
  omega

theorem answerAt_afterSamples (m j : Nat) (s : State) :
    answerAt (afterSamples m s) j = answerAt s (m + j) := by
  simp only [answerAt, afterSamples, List.getElem?_drop, List.length_drop]
  split
  · rfl
  · rename_i h
    have := List.getElem?_eq_none_iff.1 h
    congr 1
    omega

@[simp] theorem answerAt_addLog (l : List Act) (s : State) (j : Nat) :
    answerAt (s.addLog l) j = answerAt s j := rfl

theorem afterSamples_addLog (l : List Act) (m : Nat) (s : State) :
    afterSamples m (s.addLog l) = (afterSamples m s).addLog l := rfl

theorem sampleBusy_eq (s : State) :
    sampleBusy s = (afterSamples 1 s).addLog [.ev (.sample (answerAt s 0))] := by
  rw [sampleBusy, takeBusy_eq, busyLevel_eq]; rfl

theorem nextIsBusy_iff (s : State) : nextIsBusy s = true ↔ answerAt s 0 = s.cfg.busyActiveLevel := by
  simp [nextIsBusy, busyLevel_eq]

theorem busyPoll_eq (s : State) (h : nextIsBusy s = true) :
    busyPoll s = (afterSamples 1 s).addLog (busyPairs s.cfg 1) := by
  rw [nextIsBusy_iff] at h
  rw [busyPoll, sampleBusy_eq, h]
  simp [emit, busyPairs]

theorem busyPairs_succ (c : Config) (k : Nat) :
    busyPairs c (k + 1) = busyPairs c 1 ++ busyPairs c k := by
  simp [busyPairs, List.replicate_succ]

theorem busyPairs_snoc (c : Config) (k : Nat) :
    busyPairs c (k + 1) = busyPairs c k ++ busyPairs c 1 := by
  simp [busyPairs, List.replicate_succ']

/-- A bounded wait, whole: it ends on its first idle sample, or has taken every sample it may and found each busy. -/
theorem pollUpTo_eq (n : Nat) (s : State) :
    (∃ k, k < n ∧ (∀ j, j < k → answerAt s j = s.cfg.busyActiveLevel) ∧
      answerAt s k ≠ s.cfg.busyActiveLevel ∧
      pollUpTo n s = (afterSamples (k + 1) s).addLog
        (busyPairs s.cfg k ++ [.ev (.sample (answerAt s k))])) ∨
    ((∀ j, j < n → answerAt s j = s.cfg.busyActiveLevel) ∧
      pollUpTo n s = (afterSamples n s).addLog (busyPairs s.cfg n)) := by
  induction n generalizing s with
  | zero => exact .inr ⟨by simp, by simp [pollUpTo, busyPairs, State.addLog]⟩
  | succ n ih =>
    by_cases hb : nextIsBusy s = true
    · have h0 := (nextIsBusy_iff s).1 hb
      have hcfg : (busyPoll s).cfg = s.cfg := rfl
      have hans : ∀ j, answerAt (busyPoll s) j = answerAt s (j + 1) := fun j => by
        rw [busyPoll_eq s hb, answerAt_addLog, answerAt_afterSamples, Nat.add_comm]
      have hall : ∀ k, (∀ j, j < k → answerAt (busyPoll s) j = s.cfg.busyActiveLevel) →
          ∀ j, j < k + 1 → answerAt s j = s.cfg.busyActiveLevel := fun k hk j hj => by
        cases j with
        | zero => exact h0
        | succ j => rw [← hans]; exact hk j (by omega)
      have hrun : pollUpTo (n + 1) s = pollUpTo n (busyPoll s) := by simp [pollUpTo, hb]
      rcases ih (busyPoll s) with ⟨k, hk, hbusy, hidle, he⟩ | ⟨hbusy, he⟩
      · refine .inl ⟨k + 1, by omega, hall k hbusy, hans k ▸ hidle, ?_⟩
        rw [hrun, he, hcfg, hans, busyPoll_eq s hb, afterSamples_addLog, afterSamples_afterSamples,
          State.addLog_addLog, busyPairs_succ s.cfg k, ← List.append_assoc, Nat.add_comm 1]
      · refine .inr ⟨hall n hbusy, ?_⟩
        rw [hrun, he, hcfg, busyPoll_eq s hb, afterSamples_addLog, afterSamples_afterSamples,
          State.addLog_addLog, ← busyPairs_succ, Nat.add_comm]
    · refine .inl ⟨0, by omega, by simp, fun h => hb ((nextIsBusy_iff s).2 h), ?_⟩
      simp [pollUpTo, hb, sampleBusy_eq, busyPairs]

/-- WAIT_IDLE that does not leave the machine waiting. -/
theorem fireWait_passes (s : State) (h : WaitsPass s 1) :
    ∃ m w, WaitEnds s m w ∧ fireWait 0 s = .done ((afterSamples m s).addLog w) := by
  unfold fireWait
  split
  · rename_i n hn
    rcases pollUpTo_eq n s with ⟨k, hk, hbusy, hidle, he⟩ | ⟨hbusy, he⟩
    · exact ⟨k + 1, _, .inl ⟨k, by simp [hn, hk], hbusy, hidle, rfl, rfl⟩, by simp [he]⟩
    · exact ⟨n, _, .inr ⟨hn, hbusy, rfl⟩, by simp [he]⟩
  · rename_i hn
    have hidle : answerAt s 0 ≠ s.cfg.busyActiveLevel := by
      rcases h with h | h
      · exact absurd hn h
      · exact h 0 (by omega)
    have hb : ¬ nextIsBusy s = true := fun hb => hidle ((nextIsBusy_iff s).1 hb)
    exact ⟨1, _, .inl ⟨0, by simp [hn], by simp, hidle, rfl, rfl⟩,
      by simp [hb, sampleBusy_eq, busyPairs]⟩

/-- An unbounded wait whose next sample reads busy stands where it was, one poll later. -/
theorem fireWait_holds (i : Nat) (s : State) (hn : s.cfg.busyMaxPolls = none)
    (h : answerAt s 0 = s.cfg.busyActiveLevel) :
    fireWait i s = .hold (.wait (i + 1)) ((afterSamples 1 s).addLog (busyPairs s.cfg 1)) := by
  have hb := (nextIsBusy_iff s).2 h
  simp [fireWait, hn, hb, busyPoll_eq s hb]

/-- An unbounded wait whose next sample reads idle ends with it. -/
theorem fireWait_idle (i : Nat) (s : State) (hn : s.cfg.busyMaxPolls = none)
    (h : answerAt s 0 ≠ s.cfg.busyActiveLevel) :
    fireWait i s = .done ((afterSamples 1 s).addLog [.ev (.sample (answerAt s 0))]) := by
  have hb : ¬ nextIsBusy s = true := fun hb => h ((nextIsBusy_iff s).1 hb)
  simp [fireWait, hn, hb, sampleBusy_eq]

/-- How a wait ends depends on the configuration and the answers to come alone. -/
theorem WaitEnds_congr (s t : State) (m : Nat) (w : List Act) (hc : t.cfg = s.cfg)
    (hb : t.busyAnswers = s.busyAnswers) (hd : t.drawn = s.drawn) (h : WaitEnds t m w) :
    WaitEnds s m w := by
  have ha : ∀ j, answerAt t j = answerAt s j := fun j => by simp [answerAt, hb, hd]
  simpa [WaitEnds, ha, hc] using h

theorem WaitsPass_congr (s t : State) (m : Nat) (hc : t.cfg = s.cfg)
    (hb : t.busyAnswers = s.busyAnswers) (hd : t.drawn = s.drawn) (h : WaitsPass s m) :
    WaitsPass t m := by
  have ha : ∀ j, answerAt t j = answerAt s j := fun j => by simp [answerAt, hb, hd]
  simpa [WaitsPass, ha, hc] using h

theorem WaitsPass_mono (s : State) (m n : Nat) (hmn : m ≤ n) (h : WaitsPass s n) : WaitsPass s m :=
  h.imp id fun h j hj => h j (by omega)

/-- Two waits that pass: once the first has ended, the second passes from where it stands. -/
theorem WaitsPass_next (s : State) (m : Nat) (w : List Act) (h : WaitsPass s 2) (hw : WaitEnds s m w) :
    WaitsPass (afterSamples m s) 1 := by
  by_cases hn : s.cfg.busyMaxPolls = none
  · have h := h.resolve_left (absurd hn)
    refine .inr fun j hj => ?_
    obtain rfl : j = 0 := by omega
    rw [answerAt_afterSamples]
    rcases hw with ⟨k, -, hb, -, rfl, -⟩ | ⟨h', -⟩
    · have hk : k = 0 := by
        by_contra hk
        exact h 0 (by omega) (hb 0 (by omega))
      subst hk
      exact h 1 (by omega)
    · rw [hn] at h'; exact absurd h' (by simp)
  · exact .inl hn

/-- The answer to a bring-up, and the state after it, in the terms claims use. -/
theorem upResult_eq (s : State) : upResult s = upAnswer s := by
  cases h : s.upAnswers <;> simp [upResult, upAnswer, h]

theorem takeUp_eq (s : State) : takeUp s = afterBringUp s := by
  cases h : s.upAnswers <;> simp [takeUp, afterBringUp, State.setUpAnswers, State.setDrawn, h]

theorem bringUp_eq (s : State) :
    bringUp s = (afterBringUp s).addLog [.ev (.bringUp (upAnswer s))] := by
  rw [bringUp, upResult_eq, takeUp_eq]; rfl

/-- A no-op answers DONE and does nothing else (R10, R222). -/
theorem noop_eq (s : State) : noop s = completed [] ⟨0, 0⟩ s := by
  simp [noop, runOps, fire, completed, endRequest, State.setSeq, State.setLatched, State.addResponse,
    respDone]

theorem fireAccess_admitted (op : SeqOp) (a : Nat) (s t : State) (h : admits s.cfg a = true) :
    fireAccess op a s t = .done t := by simp [fireAccess, h]

/-- An access that was performed was admitted. -/
theorem fireAccess_done (op : SeqOp) (a : Nat) (s t u : State) (h : fireAccess op a s u = .done t) :
    admits s.cfg a = true ∧ u = t := by
  unfold fireAccess at h
  split at h
  · exact ⟨‹_›, Fired.done.inj h⟩
  · exact absurd h (by simp)

theorem fireAccess_blocked (op : SeqOp) (a : Nat) (s t : State) (h : admits s.cfg a = false) :
    fireAccess op a s t = .hold op s := by simp [fireAccess, h]

end Sys2Proof.Machine
end

