-- ==== Sys2Proof/Laws/Run.lean ====
section
/-! SUPPORT. Running a sequence: one rewriting lemma per operation, the closed forms of frames, buffers and fills, and what
no sequence changes. -/

namespace Sys2Proof.Machine

open Sys2Proof Safety

@[simp] theorem runOps_nil (s : State) : runOps [] s = endRequest s := rfl

@[simp] theorem runOps_frame (f : Frame) (ops : List SeqOp) (s : State) :
    runOps (.frame f :: ops) s = runOps ops (sendFrame f s) := rfl

@[simp] theorem runOps_rst (l : Level) (ops : List SeqOp) (s : State) :
    runOps (.rst l :: ops) s = runOps ops (driveRst l s) := rfl

@[simp] theorem runOps_delay (ms : Nat) (ops : List SeqOp) (s : State) :
    runOps (.delay ms :: ops) s = runOps ops (emit (.delay ms) s) := rfl

@[simp] theorem runOps_life (l : Life) (ops : List SeqOp) (s : State) :
    runOps (.life l :: ops) s = runOps ops (s.setLife l) := rfl

@[simp] theorem runOps_respond (r : Response) (ops : List SeqOp) (s : State) :
    runOps (.respond r :: ops) s = runOps ops (s.addResponse r) := rfl

theorem runOps_of_done (op : SeqOp) (ops : List SeqOp) (s t : State) (h : fire op s = .done t) :
    runOps (op :: ops) s = runOps ops t := by simp [runOps, h]

theorem runOps_of_hold (op op' : SeqOp) (ops : List SeqOp) (s t : State) (h : fire op s = .hold op' t) :
    runOps (op :: ops) s = t.setSeq (op' :: ops) := by simp [runOps, h]

/-- A wait that passes, within a sequence. -/
theorem runOps_wait (ops : List SeqOp) (s : State) (h : WaitsPass s 1) :
    ∃ m w, WaitEnds s m w ∧ runOps (.wait 0 :: ops) s = runOps ops ((afterSamples m s).addLog w) := by
  obtain ⟨m, w, hw, hf⟩ := fireWait_passes s h
  exact ⟨m, w, hw, runOps_of_done _ _ _ _ hf⟩

theorem runOps_sendMem (a : Nat) (ops : List SeqOp) (s : State) (h : admits s.cfg a = true) :
    runOps (.sendMem a :: ops) s = runOps ops (sendFromMem a s) :=
  runOps_of_done _ _ _ _ (fireAccess_admitted _ _ _ _ h)

theorem runOps_store (a : Nat) (v : Byte) (ops : List SeqOp) (s : State) (h : admits s.cfg a = true) :
    runOps (.store a v :: ops) s = runOps ops (storeByte a v s) :=
  runOps_of_done _ _ _ _ (fireAccess_admitted _ _ _ _ h)

theorem runOps_plot (a : Nat) (m : Byte) (col : Bool) (ops : List SeqOp) (s : State)
    (h : admits s.cfg a = true) :
    runOps (.plot a m col :: ops) s = runOps ops (plotAt a m col s) :=
  runOps_of_done _ _ _ _ (fireAccess_admitted _ _ _ _ h)

/-- An access that is not admitted leaves the request standing before it. -/
theorem runOps_blocked (op : SeqOp) (a : Nat) (ops : List SeqOp) (s : State) (ha : opAddr op = some a)
    (h : admits s.cfg a = false) : runOps (op :: ops) s = s.setSeq (op :: ops) := by
  cases op <;> simp only [opAddr, Option.some.injEq, reduceCtorEq] at ha <;> subst ha <;>
    exact runOps_of_hold _ _ _ _ _ (fireAccess_blocked _ _ _ _ h)

/-- The data/command latch after a list of frames. -/
def dcAfter (c : Config) (old : Option Level) (fs : List Frame) : Option Level :=
  match fs.getLast? with
  | none => old
  | some f => some (frameLevel c f)

theorem dcAfter_cons (c : Config) (old : Option Level) (f : Frame) (fs : List Frame) :
    dcAfter c old (f :: fs) = dcAfter c (some (frameLevel c f)) fs := by
  cases fs with
  | nil => rfl
  | cons g gs =>
    have : (g :: gs).getLast? = some ((g :: gs).getLast (by simp)) := List.getLast?_eq_some_getLast _
    simp [dcAfter, List.getLast?_cons_cons, this]

theorem dcAfter_append (c : Config) (old : Option Level) (fs gs : List Frame) :
    dcAfter c old (fs ++ gs) = dcAfter c (dcAfter c old fs) gs := by
  induction fs generalizing old with
  | nil => rfl
  | cons f fs ih => rw [List.cons_append, dcAfter_cons, ih, dcAfter_cons]

/-- The reset pulse, whole (R133). -/
theorem runOps_hwReset (c : Config) (ops : List SeqOp) (s : State) :
    runOps (hwResetOps c ++ ops) s = runOps ops ((s.addLog (pulseActs c)).setRst (some .high)) := by
  simp only [hwResetOps, List.cons_append, List.nil_append, runOps_rst, runOps_delay]
  refine congrArg (runOps _) ?_
  simp [driveRst, emit, State.addLog, State.setRst, pulseActs]

/-- A run of frames, whole. -/
theorem runOps_frames (fs : List Frame) (ops : List SeqOp) (s : State) :
    runOps (fs.map SeqOp.frame ++ ops) s =
      runOps ops ((s.addLog (framesActs s.cfg fs)).setDc (dcAfter s.cfg s.dcL fs)) := by
  induction fs generalizing s with
  | nil => simp [framesActs, dcAfter, State.addLog, State.setDc]
  | cons f fs ih =>
    rw [List.map_cons, List.cons_append, runOps_frame, ih, sendFrame_eq, dcAfter_cons]
    congr 1
    simp [State.addLog, State.setDc, framesActs]

/-- The acts of sending the bytes at a list of addresses. -/
def sendActs (c : Config) (m : Memory) (as : List Nat) : List Act :=
  as.flatMap fun a => .rd a (readByte m a) :: frameActs c (.dat (readByte m a))

/-- A run of bytes read and sent, whole. -/
theorem runOps_sendMems (as : List Nat) (ops : List SeqOp) (s : State)
    (h : ∀ a ∈ as, admits s.cfg a = true) :
    runOps (as.map SeqOp.sendMem ++ ops) s =
      runOps ops ((s.addLog (sendActs s.cfg s.mem as)).setDc
        (if as = [] then s.dcL else some s.cfg.dcCmdLevel.other)) := by
  induction as generalizing s with
  | nil => simp [sendActs, State.addLog, State.setDc]
  | cons a as ih =>
    rw [List.map_cons, List.cons_append, runOps_sendMem _ _ _ (h a (by simp)), ih]
    · congr 1
      simp [State.addLog, State.setDc, sendActs, sendFromMem, sendData, sendFrame_eq, frameActs,
        frameLevel]
    · exact fun b hb => h b (by simp [hb])

/-- The writes of a fill. -/
def fillMem (m : Memory) (as : List Nat) (v : Byte) : Memory := as.foldl (fun m a => writeByte m a v) m

/-- A run of stores of one byte, whole. -/
theorem runOps_stores (as : List Nat) (v : Byte) (ops : List SeqOp) (s : State)
    (h : ∀ a ∈ as, admits s.cfg a = true) :
    runOps (as.map (fun a => SeqOp.store a v) ++ ops) s =
      runOps ops ((s.setMem (fillMem s.mem as v)).addLog (as.map (fun a => Act.wr a v))) := by
  induction as generalizing s with
  | nil => simp [fillMem, State.addLog, State.setMem]
  | cons a as ih =>
    rw [List.map_cons, List.cons_append, runOps_store _ _ _ _ (h a (by simp)), ih]
    · congr 1
      simp [State.addLog, State.setMem, fillMem, storeByte]
    · exact fun b hb => h b (by simp [hb])

theorem fillMem_wf (as : List Nat) (v : Byte) (m : Memory) (h : m.wf = true) :
    Memory.wf (fillMem m as v) = true := by
  induction as generalizing m with
  | nil => exact h
  | cons a as ih => exact ih _ (writeByte_wf m a v h)

theorem readByte_fillMem (as : List Nat) (v : Byte) (m : Memory) (x : Nat) (h : m.wf = true) :
    readByte (fillMem m as v) x = if x ∈ as then v else readByte m x := by
  induction as generalizing m with
  | nil => rfl
  | cons a as ih =>
    show readByte (fillMem (writeByte m a v) as v) x = _
    rw [ih _ (writeByte_wf m a v h), readByte_writeByte _ _ _ _ h]
    by_cases hx : x = a <;> simp [hx]

/-- What starting an operation can do: perform it, stand before an access, or stay in an unbounded wait. -/
theorem fire_cases (op : SeqOp) (s : State) :
    (∃ t, fire op s = .done t) ∨
    (∃ a, opAddr op = some a ∧ admits s.cfg a = false ∧ fire op s = .hold op s) ∨
    (∃ i, op = .wait i ∧ s.cfg.busyMaxPolls = none ∧
      fire op s = .hold (.wait (i + 1)) ((afterSamples 1 s).addLog (busyPairs s.cfg 1))) := by
  have access : ∀ a t, opAddr op = some a → fire op s = fireAccess op a s t →
      (∃ t, fire op s = .done t) ∨
      (∃ a, opAddr op = some a ∧ admits s.cfg a = false ∧ fire op s = .hold op s) ∨
      (∃ i, op = .wait i ∧ s.cfg.busyMaxPolls = none ∧
        fire op s = .hold (.wait (i + 1)) ((afterSamples 1 s).addLog (busyPairs s.cfg 1))) := by
    intro a t ha hf
    by_cases h : admits s.cfg a = true
    · exact .inl ⟨t, hf.trans (fireAccess_admitted _ _ _ _ h)⟩
    · have h : admits s.cfg a = false := by simpa using h
      exact .inr (.inl ⟨a, ha, h, hf.trans (fireAccess_blocked _ _ _ _ h)⟩)
  cases op with
  | frame f => exact .inl ⟨_, rfl⟩
  | wait i =>
    by_cases hn : s.cfg.busyMaxPolls = none
    · by_cases hb : answerAt s 0 = s.cfg.busyActiveLevel
      · exact .inr (.inr ⟨i, rfl, hn, fireWait_holds i s hn hb⟩)
      · have : ¬ nextIsBusy s = true := fun h => hb ((nextIsBusy_iff s).1 h)
        exact .inl ⟨sampleBusy s, by simp [fire, fireWait, hn, this]⟩
    · obtain ⟨n, hn⟩ := Option.ne_none_iff_exists'.1 hn
      exact .inl ⟨pollUpTo (n - i) s, by simp [fire, fireWait, hn]⟩
  | rst l => exact .inl ⟨_, rfl⟩
  | delay ms => exact .inl ⟨_, rfl⟩
  | sendMem a => exact access a _ rfl rfl
  | store a v => exact access a _ rfl rfl
  | plot a m col => exact access a _ rfl rfl
  | life l => exact .inl ⟨_, rfl⟩
  | respond r => exact .inl ⟨_, rfl⟩

/-- A property that every performed operation keeps, and that holding and ending keep, holds after a sequence. -/
theorem runOps_induction (P : State → State → Prop)
    (htrans : ∀ a b c, P a b → P b c → P a c)
    (hfire : ∀ op s t, fire op s = .done t → P s t)
    (hhold : ∀ op op' s t, fire op s = .hold op' t → P s t)
    (hseq : ∀ l s, P s (s.setSeq l)) (hlatched : ∀ l s, P s (s.setLatched l))
    (ops : List SeqOp) (s : State) : P s (runOps ops s) := by
  induction ops generalizing s with
  | nil => exact htrans _ _ _ (hseq [] s) (hlatched none _)
  | cons op ops ih =>
    cases h : fire op s with
    | done t => rw [runOps_of_done _ _ _ _ h]; exact htrans _ _ _ (hfire _ _ _ h) (ih t)
    | hold op' t => rw [runOps_of_hold _ _ _ _ _ h]; exact htrans _ _ _ (hhold _ _ _ _ h) (hseq _ t)

/-- Two states in a relation that every operation carries over, performed or not, run to states in that relation. -/
theorem runOps_simulation (R : State → State → Prop)
    (hfire : ∀ op s s', R s s' →
      (∃ t t', fire op s = .done t ∧ fire op s' = .done t' ∧ R t t') ∨
      (∃ op' t t', fire op s = .hold op' t ∧ fire op s' = .hold op' t' ∧ R t t'))
    (hseq : ∀ l s s', R s s' → R (s.setSeq l) (s'.setSeq l))
    (hlatched : ∀ s s', R s s' → R (s.setLatched none) (s'.setLatched none))
    (ops : List SeqOp) (s s' : State) (h : R s s') : R (runOps ops s) (runOps ops s') := by
  induction ops generalizing s s' with
  | nil => exact hlatched _ _ (hseq _ _ _ h)
  | cons op ops ih =>
    rcases hfire op s s' h with ⟨t, t', h1, h2, h3⟩ | ⟨op', t, t', h1, h2, h3⟩
    · rw [runOps_of_done _ _ _ _ h1, runOps_of_done _ _ _ _ h2]; exact ih _ _ h3
    · rw [runOps_of_hold _ _ _ _ _ h1, runOps_of_hold _ _ _ _ _ h2]; exact hseq _ _ _ h3

/-- What no operation of a sequence touches. -/
def SameFixed (s t : State) : Prop :=
  t.cfg = s.cfg ∧ t.rot = s.rot ∧ t.misuse = s.misuse ∧ t.refused = s.refused ∧ t.port = s.port ∧
    t.upAnswers = s.upAnswers

theorem pollUpTo_fixed (n : Nat) (s : State) : SameFixed s (pollUpTo n s) := by
  rcases pollUpTo_eq n s with ⟨k, -, -, -, h⟩ | ⟨-, h⟩ <;> rw [h] <;> exact ⟨rfl, rfl, rfl, rfl, rfl, rfl⟩

theorem fire_done_fixed (op : SeqOp) (s t : State) (h : fire op s = .done t) : SameFixed s t := by
  have access : ∀ a u, fireAccess op a s u = .done t → u = t := by
    intro a u hu
    unfold fireAccess at hu
    split at hu
    · exact Fired.done.inj hu
    · exact absurd hu (by simp)
  cases op with
  | wait i =>
    simp only [fire, fireWait] at h
    split at h
    · rw [← Fired.done.inj h]; exact pollUpTo_fixed _ _
    · split at h
      · exact absurd h (by simp)
      · rw [← Fired.done.inj h]; exact ⟨rfl, rfl, rfl, rfl, rfl, rfl⟩
  | sendMem a => rw [← access a _ h]; exact ⟨rfl, rfl, rfl, rfl, rfl, rfl⟩
  | store a v => rw [← access a _ h]; exact ⟨rfl, rfl, rfl, rfl, rfl, rfl⟩
  | plot a m col => rw [← access a _ h]; exact ⟨rfl, rfl, rfl, rfl, rfl, rfl⟩
  | frame f => rw [← Fired.done.inj h]; exact ⟨rfl, rfl, rfl, rfl, rfl, rfl⟩
  | rst l => rw [← Fired.done.inj h]; exact ⟨rfl, rfl, rfl, rfl, rfl, rfl⟩
  | delay ms => rw [← Fired.done.inj h]; exact ⟨rfl, rfl, rfl, rfl, rfl, rfl⟩
  | life l => rw [← Fired.done.inj h]; exact ⟨rfl, rfl, rfl, rfl, rfl, rfl⟩
  | respond r => rw [← Fired.done.inj h]; exact ⟨rfl, rfl, rfl, rfl, rfl, rfl⟩

theorem fire_hold_fixed (op op' : SeqOp) (s t : State) (h : fire op s = .hold op' t) : SameFixed s t := by
  rcases fire_cases op s with ⟨u, hu⟩ | ⟨a, -, -, hu⟩ | ⟨i, -, -, hu⟩
  · rw [hu] at h; exact absurd h (by simp)
  · rw [hu] at h; obtain ⟨-, rfl⟩ := Fired.hold.inj h; exact ⟨rfl, rfl, rfl, rfl, rfl, rfl⟩
  · rw [hu] at h; obtain ⟨-, rfl⟩ := Fired.hold.inj h; exact ⟨rfl, rfl, rfl, rfl, rfl, rfl⟩

/-- No sequence changes the configuration, `ROT`, the sticky marks, the port or the bring-up answers. -/
theorem runOps_fixed (ops : List SeqOp) (s : State) : SameFixed s (runOps ops s) := by
  refine runOps_induction SameFixed ?_ fire_done_fixed
    fire_hold_fixed (fun _ _ => ⟨rfl, rfl, rfl, rfl, rfl, rfl⟩) (fun _ _ => ⟨rfl, rfl, rfl, rfl, rfl, rfl⟩)
    ops s
  rintro a b c ⟨h1, h2, h3, h4, h5, h6⟩ ⟨g1, g2, g3, g4, g5, g6⟩
  exact ⟨g1.trans h1, g2.trans h2, g3.trans h3, g4.trans h4, g5.trans h5, g6.trans h6⟩

@[simp] theorem runOps_cfg (ops : List SeqOp) (s : State) : (runOps ops s).cfg = s.cfg := (runOps_fixed ops s).1

@[simp] theorem runOps_rot (ops : List SeqOp) (s : State) : (runOps ops s).rot = s.rot := (runOps_fixed ops s).2.1

@[simp] theorem runOps_misuse (ops : List SeqOp) (s : State) : (runOps ops s).misuse = s.misuse :=
  (runOps_fixed ops s).2.2.1

@[simp] theorem runOps_refused (ops : List SeqOp) (s : State) : (runOps ops s).refused = s.refused :=
  (runOps_fixed ops s).2.2.2.1

@[simp] theorem runOps_port (ops : List SeqOp) (s : State) : (runOps ops s).port = s.port :=
  (runOps_fixed ops s).2.2.2.2.1

/-- Where a sequence stops: ended, stuck at an access, or inside an unbounded wait (R220). -/
theorem runOps_stops (ops : List SeqOp) (s : State) :
    Idle (runOps ops s) ∨ (∃ a, StuckAt (runOps ops s) a) ∨ Waiting (runOps ops s) := by
  induction ops generalizing s with
  | nil => exact .inl rfl
  | cons op ops ih =>
    rcases fire_cases op s with ⟨t, h⟩ | ⟨a, ha, hb, h⟩ | ⟨i, -, hn, h⟩
    · rw [runOps_of_done _ _ _ _ h]; exact ih t
    · rw [runOps_of_hold _ _ _ _ _ h]; exact .inr (.inl ⟨a, op, ops, rfl, ha, hb⟩)
    · rw [runOps_of_hold _ _ _ _ _ h]; exact .inr (.inr ⟨hn, i + 1, ops, rfl⟩)

end Sys2Proof.Machine
end

