-- ==== Sys2Proof/Laws/Effects.lean ====
section
/-! SUPPORT. What every operation does to the log and to the state the log accounts for: memory, both pin latches, the
configuration. Said once per operation, then for a whole sequence. -/

namespace Sys2Proof.Machine

open Sys2Proof Safety

/-- The level on a pin after a piece of log, from the level before it. -/
def levelAfter (p : OutPin) (cur : Option Level) (l : List Act) : Option Level :=
  l.foldl (fun cur a => match a with
    | .ev (.setPin q lv) => if q = p then some lv else cur
    | .ev (.xfer _) => cur
    | .ev (.sample _) => cur
    | .ev (.delay _) => cur
    | .ev (.bringUp _) => cur
    | .rd _ _ => cur
    | .wr _ _ => cur) cur

theorem levelAfter_append (p : OutPin) (cur : Option Level) (l m : List Act) :
    levelAfter p cur (l ++ m) = levelAfter p (levelAfter p cur l) m := List.foldl_append

theorem lastLevel_append (p : OutPin) (l m : List Act) :
    lastLevel p (l ++ m) = levelAfter p (lastLevel p l) m := List.foldl_append

theorem replay_append (m : Memory) (l k : List Act) : replay m (l ++ k) = replay (replay m l) k := by
  induction l generalizing m with
  | nil => rfl
  | cons a l ih => cases a <;> exact ih _

theorem accessesTrue_append (c : Config) (m : Memory) (l k : List Act) :
    accessesTrue c m (l ++ k) = (accessesTrue c m l && accessesTrue c (replay m l) k) := by
  induction l generalizing m with
  | nil => rfl
  | cons a l ih => cases a <;> simp [accessesTrue, replay, ih, Bool.and_assoc]

/-- From `s` to `t` the machine performed `l`: the log grew by it, and memory and the latches are what it makes of them. -/
structure Performed (s t : State) (l : List Act) : Prop where
  cfg : t.cfg = s.cfg
  log : t.log = s.log ++ l
  mem : t.mem = replay s.mem l
  accesses : accessesTrue s.cfg s.mem l = true
  rstL : t.rstL = levelAfter .rst s.rstL l
  dcL : t.dcL = levelAfter .dc s.dcL l
  wf : s.mem.wf = true → t.mem.wf = true

theorem Performed.trans {a b c : State} {l m : List Act} (h : Performed a b l) (g : Performed b c m) :
    Performed a c (l ++ m) where
  cfg := g.cfg.trans h.cfg
  log := by rw [g.log, h.log, List.append_assoc]
  mem := by rw [g.mem, h.mem, replay_append]
  accesses := by rw [accessesTrue_append, h.accesses, ← h.mem, ← h.cfg, g.accesses]; rfl
  rstL := by rw [g.rstL, h.rstL, levelAfter_append]
  dcL := by rw [g.dcL, h.dcL, levelAfter_append]
  wf := fun w => g.wf (h.wf w)

theorem performed_nothing (s t : State) (hc : t.cfg = s.cfg) (hl : t.log = s.log) (hm : t.mem = s.mem)
    (hr : t.rstL = s.rstL) (hd : t.dcL = s.dcL) : Performed s t [] :=
  ⟨hc, by rw [hl, List.append_nil], hm, rfl, hr, hd, fun w => hm ▸ w⟩

theorem performed_sendFrame (f : Frame) (s : State) : Performed s (sendFrame f s) (frameActs s.cfg f) := by
  cases f <;> exact ⟨rfl, by rw [sendFrame_eq]; rfl, rfl, rfl, rfl, rfl, id⟩

theorem performed_busyPoll (s : State) : Performed s (busyPoll s)
    [.ev (.sample (busyLevel s)), .ev (.delay s.cfg.busyPollMs)] :=
  ⟨rfl, by simp [busyPoll, sampleBusy, emit, takeBusy], rfl, rfl, rfl, rfl, id⟩

theorem performed_sampleBusy (s : State) :
    Performed s (sampleBusy s) [.ev (.sample (busyLevel s))] :=
  ⟨rfl, rfl, rfl, rfl, rfl, rfl, id⟩

theorem performed_bringUp (s : State) : Performed s (bringUp s) [.ev (.bringUp (upResult s))] :=
  ⟨rfl, rfl, rfl, rfl, rfl, rfl, id⟩

theorem performed_read (a : Nat) (s : State) (h : admits s.cfg a = true) :
    Performed s (s.addLog [.rd a (readByte s.mem a)]) [.rd a (readByte s.mem a)] :=
  ⟨rfl, rfl, rfl, by simp [accessesTrue, h], rfl, rfl, id⟩

theorem performed_storeByte (a : Nat) (v : Byte) (s : State) (h : admits s.cfg a = true) :
    Performed s (storeByte a v s) [.wr a v] :=
  ⟨rfl, rfl, rfl, by simp [accessesTrue, h], rfl, rfl, writeByte_wf _ _ _⟩

theorem performed_pollUpTo (n : Nat) (s : State) :
    ∃ l, Performed s (pollUpTo n s) l ∧ framesOk (linkAllowed s.cfg) l = true := by
  induction n generalizing s with
  | zero => exact ⟨[], performed_nothing _ _ rfl rfl rfl rfl rfl, rfl⟩
  | succ n ih =>
    unfold pollUpTo
    split
    · obtain ⟨l, h, h2⟩ := ih (busyPoll s)
      exact ⟨_, (performed_busyPoll s).trans h, h2⟩
    · exact ⟨_, performed_sampleBusy s, rfl⟩

/-- An operation whose frame, if it is one, R70 allows. -/
def opAllowed (c : Config) : SeqOp → Bool
  | .frame f => frameAllowed c f
  | .wait _ => true
  | .rst _ => true
  | .delay _ => true
  | .sendMem _ => true
  | .store _ _ => true
  | .plot _ _ _ => true
  | .life _ => true
  | .respond _ => true

theorem seqAllowed_eq (s : State) : seqAllowed s = s.seq.all (opAllowed s.cfg) := by
  unfold seqAllowed
  congr 1

theorem frameActs_ok (c : Config) (f : Frame) (h : frameAllowed c f = true) :
    framesOk (linkAllowed c) (frameActs c f) = true := by
  cases f with
  | cmd b => simp [frameActs, framesOk, linkAllowed, h]
  | dat b => cases hc : c.dcCmdLevel <;> simp [frameActs, framesOk, linkAllowed, hc, Level.other, frameAllowed]

theorem framesOk_append (ok : Level → Byte → Bool) (l m : List Act) (h : framesOk ok l = true)
    (g : framesOk ok m = true) : framesOk ok (l ++ m) = true := by
  fun_induction framesOk ok l
  case case1 => exact g
  case case2 ih =>
    simp only [Bool.and_eq_true] at h
    simp only [List.cons_append, framesOk, Bool.and_eq_true]
    exact ⟨h.1, ih h.2⟩
  case case3 => simp at h
  case case4 p l rest hne ih =>
    rw [List.cons_append]
    cases rest with
    | nil =>
      cases m with
      | nil => cases p <;> rfl
      | cons b m =>
        cases p with
        | rst => simpa [framesOk] using g
        | dc =>
          cases b with
          | ev e => cases e <;> simp [framesOk] at g ⊢ <;> exact g
          | rd => simpa [framesOk] using g
          | wr => simpa [framesOk] using g
    | cons b rest =>
      rw [framesOk]
      · exact ih h
      · intro b' rest' h1 h2
        cases h1
        exact hne _ _ rfl h2
  all_goals (rename_i ih; exact ih h)

/-- What an operation that is performed does. -/
theorem performed_fire (op : SeqOp) (s t : State) (h : fire op s = .done t) :
    ∃ l, Performed s t l ∧ (opAllowed s.cfg op = true → framesOk (linkAllowed s.cfg) l = true) := by
  cases op with
  | frame f => rw [← Fired.done.inj h]; exact ⟨_, performed_sendFrame f s, frameActs_ok _ _⟩
  | wait i =>
    simp only [fire, fireWait] at h
    split at h
    · rw [← Fired.done.inj h]
      obtain ⟨l, h1, h2⟩ := performed_pollUpTo _ s
      exact ⟨l, h1, fun _ => h2⟩
    · split at h
      · simp at h
      · rw [← Fired.done.inj h]; exact ⟨_, performed_sampleBusy s, fun _ => rfl⟩
  | rst l =>
    rw [← Fired.done.inj h]
    exact ⟨[.ev (.setPin .rst l)], ⟨rfl, rfl, rfl, rfl, rfl, rfl, id⟩, fun _ => rfl⟩
  | delay ms =>
    rw [← Fired.done.inj h]
    exact ⟨[.ev (.delay ms)], ⟨rfl, rfl, rfl, rfl, rfl, rfl, id⟩, fun _ => rfl⟩
  | sendMem a =>
    obtain ⟨ha, rfl⟩ := fireAccess_done _ _ _ _ _ h
    exact ⟨_, (performed_read a s ha).trans (performed_sendFrame _ _), fun _ => frameActs_ok s.cfg _ rfl⟩
  | store a v =>
    obtain ⟨ha, rfl⟩ := fireAccess_done _ _ _ _ _ h
    exact ⟨_, performed_storeByte a v s ha, fun _ => rfl⟩
  | plot a m col =>
    obtain ⟨ha, rfl⟩ := fireAccess_done _ _ _ _ _ h
    exact ⟨_, (performed_read a s ha).trans (performed_storeByte _ _ _ ha), fun _ => rfl⟩
  | life l =>
    rw [← Fired.done.inj h]; exact ⟨[], performed_nothing _ _ rfl rfl rfl rfl rfl, fun _ => rfl⟩
  | respond r =>
    rw [← Fired.done.inj h]; exact ⟨[], performed_nothing _ _ rfl rfl rfl rfl rfl, fun _ => rfl⟩

theorem pollUpTo_lifeRst (n : Nat) (s : State) :
    (pollUpTo n s).life = s.life ∧ (pollUpTo n s).rstL = s.rstL := by
  induction n generalizing s with
  | zero => exact ⟨rfl, rfl⟩
  | succ n ih =>
    unfold pollUpTo
    split
    · exact ih _
    · exact ⟨rfl, rfl⟩

/-- What an operation that cannot be passed does: at most a busy poll, and the operation stands, its counter aside. -/
theorem performed_hold (op op' : SeqOp) (s t : State) (h : fire op s = .hold op' t) :
    ∃ l, Performed s t l ∧ framesOk (linkAllowed s.cfg) l = true ∧
      opAllowed s.cfg op' = opAllowed s.cfg op ∧
      (∀ x y ops, lifeAndRst x y (op' :: ops) = lifeAndRst x y (op :: ops)) ∧
      t.life = s.life ∧ t.rstL = s.rstL := by
  rcases fire_cases op s with ⟨u, hu⟩ | ⟨a, -, -, hu⟩ | ⟨i, rfl, hn, -⟩
  · rw [hu] at h; simp at h
  · rw [hu] at h
    obtain ⟨rfl, rfl⟩ := Fired.hold.inj h
    exact ⟨[], performed_nothing _ _ rfl rfl rfl rfl rfl, rfl, rfl, fun _ _ _ => rfl, rfl, rfl⟩
  · simp only [fire, fireWait, hn] at h
    split at h
    · obtain ⟨rfl, rfl⟩ := Fired.hold.inj h
      exact ⟨_, performed_busyPoll s, rfl, rfl, fun _ _ _ => rfl, rfl, rfl⟩
    · simp at h

/-- An operation performed brings `LIFE` and the reset latch one operation nearer to where the sequence takes them. -/
theorem lifeAndRst_fire (op : SeqOp) (s t : State) (h : fire op s = .done t) (ops : List SeqOp) :
    lifeAndRst t.life t.rstL ops = lifeAndRst s.life s.rstL (op :: ops) := by
  cases op with
  | frame f => rw [← Fired.done.inj h]; rfl
  | wait i =>
    have : t.life = s.life ∧ t.rstL = s.rstL := by
      simp only [fire, fireWait] at h
      split at h
      · rw [← Fired.done.inj h]; exact pollUpTo_lifeRst _ _
      · split at h
        · simp at h
        · rw [← Fired.done.inj h]; exact ⟨rfl, rfl⟩
    rw [this.1, this.2]; rfl
  | rst l => rw [← Fired.done.inj h]; rfl
  | delay ms => rw [← Fired.done.inj h]; rfl
  | sendMem a => obtain ⟨-, rfl⟩ := fireAccess_done _ _ _ _ _ h; rfl
  | store a v => obtain ⟨-, rfl⟩ := fireAccess_done _ _ _ _ _ h; rfl
  | plot a m col => obtain ⟨-, rfl⟩ := fireAccess_done _ _ _ _ _ h; rfl
  | life l => rw [← Fired.done.inj h]; rfl
  | respond r => rw [← Fired.done.inj h]; rfl

/-- What a whole sequence does, wherever it stops. -/
theorem performed_runOps (ops : List SeqOp) (s : State) :
    ∃ l, Performed s (runOps ops s) l ∧
      (ops.all (opAllowed s.cfg) = true →
        framesOk (linkAllowed s.cfg) l = true ∧ seqAllowed (runOps ops s) = true) ∧
      lifeAndRst (runOps ops s).life (runOps ops s).rstL (runOps ops s).seq =
        lifeAndRst s.life s.rstL ops := by
  induction ops generalizing s with
  | nil => exact ⟨[], performed_nothing _ _ rfl rfl rfl rfl rfl, fun _ => ⟨rfl, rfl⟩, rfl⟩
  | cons op ops ih =>
    cases h : fire op s with
    | done t =>
      rw [runOps_of_done _ _ _ _ h]
      obtain ⟨l, h1, h2⟩ := performed_fire op s t h
      obtain ⟨m, g1, g2, g3⟩ := ih t
      refine ⟨l ++ m, h1.trans g1, fun ha => ?_, by rw [g3, lifeAndRst_fire op s t h]⟩
      rw [List.all_cons, Bool.and_eq_true] at ha
      rw [h1.cfg] at g2
      exact ⟨framesOk_append _ _ _ (h2 ha.1) (g2 ha.2).1, (g2 ha.2).2⟩
    | hold op' t =>
      rw [runOps_of_hold _ _ _ _ _ h]
      obtain ⟨l, h1, h2, h3, h4, h5, h6⟩ := performed_hold op op' s t h
      refine ⟨l, ⟨h1.cfg, h1.log, h1.mem, h1.accesses, h1.rstL, h1.dcL, h1.wf⟩, fun ha => ⟨h2, ?_⟩, ?_⟩
      · rw [seqAllowed_eq]
        show (op' :: ops).all (opAllowed t.cfg) = true
        rw [List.all_cons, Bool.and_eq_true] at ha ⊢
        rw [h1.cfg]
        exact ⟨h3 ▸ ha.1, ha.2⟩
      · show lifeAndRst t.life t.rstL (op' :: ops) = _
        rw [h5, h6, h4]

end Sys2Proof.Machine
end

