-- ==== Sys2Proof/Laws/Encode.lean ====
section
/-! SUPPORT. The fields of w0 as numbers, in both directions: what the decoder reads from a word, and what a packed word
holds (R71, R76). -/

namespace Sys2Proof

open Machine Safety

theorem or_shiftLeft (a b k : Nat) (h : a < 2 ^ k) : a ||| b <<< k = a + 2 ^ k * b := by
  rw [Nat.or_comm, ← Nat.shiftLeft_add_eq_or_of_lt h, Nat.shiftLeft_eq]; ring

/-- A packed w0 as a number. -/
theorem packW0_toNat (opc : Byte) (bv col mode : Bool) (rot : BitVec 2) :
    (packW0 opc bv col mode rot).toNat =
      opc.toNat + 256 * bv.toNat + 512 * col.toNat + 1024 * mode.toNat + 2048 * rot.toNat := by
  have ho := opc.isLt
  have hr := rot.isLt
  have h : (packW0 opc bv col mode rot).toNat = opc.toNat ||| bv.toNat <<< 8 ||| col.toNat <<< 9 |||
      mode.toNat <<< 10 ||| rot.toNat <<< 11 := by
    unfold packW0
    simp only [BitVec.toNat_or, BitVec.toNat_shiftLeft, BitVec.toNat_setWidth, BitVec.toNat_ofBool]
    rw [show opc.toNat % 2 ^ 32 = opc.toNat by omega, show rot.toNat % 2 ^ 32 = rot.toNat by omega,
      show rot.toNat <<< 11 % 2 ^ 32 = rot.toNat <<< 11 by rw [Nat.shiftLeft_eq]; omega]
    cases bv <;> cases col <;> cases mode <;> rfl
  have b1 := Bool.toNat_le bv
  have b2 := Bool.toNat_le col
  have b3 := Bool.toNat_le mode
  rw [h, or_shiftLeft opc.toNat _ 8 (by omega), or_shiftLeft _ _ 9 (by omega),
    or_shiftLeft _ _ 10 (by omega), or_shiftLeft _ _ 11 (by omega)]
  norm_num

theorem getLsbD_toNat (w : Word) (k : Nat) : w.getLsbD k = decide (w.toNat / 2 ^ k % 2 = 1) := by
  rw [BitVec.getLsbD, Nat.testBit_eq_decide_div_mod_eq]

section
variable (r : Request)

theorem fieldOpc_toNat : (fieldOpc r).toNat = r.w0.toNat % 256 := by simp [fieldOpc]

theorem fieldBv_eq : fieldBv r = decide (r.w0.toNat / 256 % 2 = 1) := getLsbD_toNat _ 8

theorem fieldCol_eq : fieldCol r = decide (r.w0.toNat / 512 % 2 = 1) := getLsbD_toNat _ 9

theorem fieldMode_eq : fieldMode r = decide (r.w0.toNat / 1024 % 2 = 1) := getLsbD_toNat _ 10

theorem fieldRot_toNat : (fieldRot r).toNat = r.w0.toNat / 2048 % 4 := by
  simp [fieldRot, Nat.shiftRight_eq_div_pow]

theorem fieldReserved_toNat : (fieldReserved r).toNat = r.w0.toNat / 8192 := by
  have := r.w0.isLt
  simp [fieldReserved, Nat.shiftRight_eq_div_pow]
  omega

theorem fieldReserved_ne : fieldReserved r ≠ 0 ↔ 2 ^ 13 ≤ r.w0.toNat := by
  rw [ne_eq, ← BitVec.toNat_inj, fieldReserved_toNat]; simp

theorem fieldRot_ne : fieldRot r ≠ 0 ↔ r.w0.toNat / 2048 % 4 ≠ 0 := by
  rw [ne_eq, ← BitVec.toNat_inj, fieldRot_toNat]; simp

theorem word_ne (w : Word) : w ≠ 0 ↔ w.toNat ≠ 0 := by
  rw [ne_eq, ← BitVec.toNat_inj]; simp

end

section
variable (opc : Byte) (bv col mode : Bool) (rot : BitVec 2) (a b d e f : Word)

/-- Every field of a packed w0 reads back. -/
theorem fields_packW0 :
    fieldOpc ⟨packW0 opc bv col mode rot, a, b, d, e, f⟩ = opc ∧
    fieldBv ⟨packW0 opc bv col mode rot, a, b, d, e, f⟩ = bv ∧
    fieldCol ⟨packW0 opc bv col mode rot, a, b, d, e, f⟩ = col ∧
    fieldMode ⟨packW0 opc bv col mode rot, a, b, d, e, f⟩ = mode ∧
    fieldRot ⟨packW0 opc bv col mode rot, a, b, d, e, f⟩ = rot ∧
    fieldReserved ⟨packW0 opc bv col mode rot, a, b, d, e, f⟩ = 0 := by
  have ho := opc.isLt
  have hr := rot.isLt
  have b1 := Bool.toNat_le bv
  have b2 := Bool.toNat_le col
  have b3 := Bool.toNat_le mode
  generalize hq : (⟨packW0 opc bv col mode rot, a, b, d, e, f⟩ : Request) = r
  have hw : r.w0.toNat = opc.toNat + 256 * bv.toNat + 512 * col.toNat + 1024 * mode.toNat +
      2048 * rot.toNat := by rw [← hq]; exact packW0_toNat opc bv col mode rot
  refine ⟨?_, ?_, ?_, ?_, ?_, ?_⟩
  · apply BitVec.eq_of_toNat_eq; rw [fieldOpc_toNat]; omega
  · rw [fieldBv_eq]; cases bv <;> simp at * <;> omega
  · rw [fieldCol_eq]; cases col <;> simp at * <;> omega
  · rw [fieldMode_eq]; cases mode <;> simp at * <;> omega
  · apply BitVec.eq_of_toNat_eq; rw [fieldRot_toNat]; omega
  · apply BitVec.eq_of_toNat_eq; rw [fieldReserved_toNat]; simp; omega

@[simp] theorem fieldOpc_packW0 : fieldOpc ⟨packW0 opc bv col mode rot, a, b, d, e, f⟩ = opc :=
  (fields_packW0 opc bv col mode rot a b d e f).1

@[simp] theorem fieldBv_packW0 : fieldBv ⟨packW0 opc bv col mode rot, a, b, d, e, f⟩ = bv :=
  (fields_packW0 opc bv col mode rot a b d e f).2.1

@[simp] theorem fieldCol_packW0 : fieldCol ⟨packW0 opc bv col mode rot, a, b, d, e, f⟩ = col :=
  (fields_packW0 opc bv col mode rot a b d e f).2.2.1

@[simp] theorem fieldMode_packW0 : fieldMode ⟨packW0 opc bv col mode rot, a, b, d, e, f⟩ = mode :=
  (fields_packW0 opc bv col mode rot a b d e f).2.2.2.1

@[simp] theorem fieldRot_packW0 : fieldRot ⟨packW0 opc bv col mode rot, a, b, d, e, f⟩ = rot :=
  (fields_packW0 opc bv col mode rot a b d e f).2.2.2.2.1

@[simp] theorem fieldReserved_packW0 : fieldReserved ⟨packW0 opc bv col mode rot, a, b, d, e, f⟩ = 0 :=
  (fields_packW0 opc bv col mode rot a b d e f).2.2.2.2.2

end

/-- A w0 without reserved bits is its own fields, packed. -/
theorem packW0_fields (r : Request) (h : r.w0.toNat < 2 ^ 13) :
    packW0 (fieldOpc r) (fieldBv r) (fieldCol r) (fieldMode r) (fieldRot r) = r.w0 := by
  have e : ∀ n : Nat, (decide (n % 2 = 1)).toNat = n % 2 := fun n => by
    by_cases h : n % 2 = 1
    · simp [h]
    · simp [h]; omega
  apply BitVec.eq_of_toNat_eq
  rw [packW0_toNat, fieldOpc_toNat, fieldRot_toNat, fieldBv_eq, fieldCol_eq, fieldMode_eq, e, e, e]
  omega

theorem frameOfCode_frameCode (f : Frame) : frameOfCode (frameCode f) = f := by
  cases f with
  | cmd b => revert b; decide
  | dat b => revert b; decide

theorem frameCode_frameOfCode (v : BitVec 9) : frameCode (frameOfCode v) = v := by revert v; decide

end Sys2Proof
end

