-- ==== Sys2Proof/Laws/Step.lean ====
section
/-! SUPPORT. The step, function by function: what it fetches, what accepting a request does, what resuming one does. -/

namespace Sys2Proof.Machine

open Sys2Proof Safety

/-- With no request in progress a step looks at the port. -/
theorem step_idle (s : State) (hs : s.seq = []) : step s = fetchRequest s := by
  unfold step fetchAndRun; rw [hs]

theorem fetchRequest_cons (s : State) (r : Request) (rest : List Request) (hp : s.port = r :: rest) :
    fetchRequest s = acceptRequest r (s.setPort rest) := by
  unfold fetchRequest; rw [hp]

theorem fetchRequest_nil (s : State) (hp : s.port = []) : fetchRequest s = .next s := by
  unfold fetchRequest; rw [hp]

theorem acceptRequest_ok (r : Request) (s : State) (i : Instr) (h : decodeRequest s.cfg r = .ok i) :
    acceptRequest r s = exec i (s.setLatched (some r)) := by
  unfold acceptRequest; rw [h]

theorem acceptRequest_error (r : Request) (s : State) (e : DecodeError)
    (h : decodeRequest s.cfg r = .error e) : acceptRequest r s = .next (refuse s) := by
  unfold acceptRequest; rw [h]

theorem step_frame (s : State) (f : Frame) (rest : List SeqOp) (hs : s.seq = .frame f :: rest) :
    step s = runFrame f (s.setSeq rest) := by
  unfold step fetchAndRun; rw [hs]

theorem runFrame_ok (f : Frame) (s : State) (i : Instr) (h : decodeFrame f = .ok i) :
    runFrame f s = exec i s := by
  unfold runFrame; rw [h]

/-- Any other operation is resumed. -/
theorem step_resume (s : State) (op : SeqOp) (rest : List SeqOp) (hs : s.seq = op :: rest)
    (hf : ∀ f, op ≠ .frame f) : step s = resume op rest s := by
  unfold step fetchAndRun; rw [hs]
  cases op with
  | frame f => exact absurd rfl (hf f)
  | wait i => rfl
  | rst l => rfl
  | delay ms => rfl
  | sendMem a => rfl
  | store a v => rfl
  | plot a m col => rfl
  | life l => rfl
  | respond r => rfl

theorem resume_stuck (op : SeqOp) (rest : List SeqOp) (s : State) (a : Nat) (h : stuckAt op s = some a) :
    resume op rest s = .fault (.unadmittedAccess a) := by
  unfold resume; rw [h]

theorem resume_free (op : SeqOp) (rest : List SeqOp) (s : State) (h : stuckAt op s = none) :
    resume op rest s = .next (runOps (op :: rest) s) := by
  unfold resume; rw [h]

theorem byte_of_toNat (b : Byte) (n : Nat) (h : b.toNat = n) : b = BitVec.ofNat 8 n := by
  rw [← h]; simp

/-- Running a listed frame is emitting it: the decoder and the meanings agree. -/
theorem exec_of_decodeFrame (f : Frame) (i : Instr) (s : State) (h : decodeFrame f = .ok i) :
    exec i s = .next (sendFrame f s) := by
  cases f with
  | dat b => rw [← Except.ok.inj h]; rfl
  | cmd b =>
    simp only [decodeFrame, decodeCommand] at h
    split at h <;> try (rename_i hb; rw [← Except.ok.inj h, byte_of_toNat b _ hb]; rfl)
    exact absurd h (by simp)

/-- A frame is emitted, listed or not. -/
theorem runFrame_eq (f : Frame) (s : State) : runFrame f s = .next (sendFrame f s) := by
  cases h : decodeFrame f with
  | error e => unfold runFrame; rw [h]
  | ok i => rw [runFrame_ok f s i h, exec_of_decodeFrame f i s h]

/-- Everything a step can do: stay idle, refuse a request, run one, emit a frame, or go on with a request in progress. -/
theorem step_cases (s t : State) (h : step s = .next t) :
    (s.seq = [] ∧ s.port = [] ∧ t = s) ∨
    (∃ r rest e, s.seq = [] ∧ s.port = r :: rest ∧ decodeRequest s.cfg r = .error e ∧
      t = refuse (s.setPort rest)) ∨
    (∃ r rest i, s.seq = [] ∧ s.port = r :: rest ∧ decodeRequest s.cfg r = .ok i ∧
      exec i ((s.setPort rest).setLatched (some r)) = .next t) ∨
    (∃ f rest, s.seq = .frame f :: rest ∧ t = sendFrame f (s.setSeq rest)) ∨
    (∃ op rest, s.seq = op :: rest ∧ stuckAt op s = none ∧ t = runOps (op :: rest) s) := by
  cases hs : s.seq with
  | nil =>
    rw [step_idle s hs] at h
    cases hp : s.port with
    | nil =>
      rw [fetchRequest_nil s hp] at h
      exact .inl ⟨rfl, rfl, (Host.Outcome.next.inj h).symm⟩
    | cons r rest =>
      rw [fetchRequest_cons s r rest hp] at h
      cases hd : decodeRequest s.cfg r with
      | error e =>
        rw [acceptRequest_error r (s.setPort rest) e hd] at h
        exact .inr (.inl ⟨r, rest, e, rfl, rfl, hd, (Host.Outcome.next.inj h).symm⟩)
      | ok i =>
        rw [acceptRequest_ok r (s.setPort rest) i hd] at h
        exact .inr (.inr (.inl ⟨r, rest, i, rfl, rfl, hd, h⟩))
  | cons op rest =>
    by_cases hf : ∃ f, op = .frame f
    · obtain ⟨f, rfl⟩ := hf
      rw [step_frame s f rest hs, runFrame_eq] at h
      exact .inr (.inr (.inr (.inl ⟨f, rest, rfl, (Host.Outcome.next.inj h).symm⟩)))
    · rw [step_resume s op rest hs fun f hf' => hf ⟨f, hf'⟩] at h
      cases hk : stuckAt op s with
      | some a => rw [resume_stuck op rest s a hk] at h; exact absurd h (by simp)
      | none =>
        rw [resume_free op rest s hk] at h
        exact .inr (.inr (.inr (.inr ⟨op, rest, rfl, hk, (Host.Outcome.next.inj h).symm⟩)))

end Sys2Proof.Machine
end

