-- ==== Sys2Proof/Laws/Exec.lean ====
section
/-! SUPPORT. The shape of every instruction: a request runs a sequence that ends with its one response, from the state with
at most MISUSE, ROT or a bring-up answer changed; a wire frame is emitted. -/

namespace Sys2Proof.Machine

open Sys2Proof Safety

/-- The states a request can start its sequence in. -/
inductive Start (s : State) : State → Prop
  | same : Start s s
  | mark : Start s (markMisuse s)
  | up : Start s (bringUp s)
  | rot (v : BitVec 2) : Start s (s.setRot v)

/-- An operation that neither answers nor touches `LIFE` or the reset pin, its frame one R70 allows. -/
def plainOp (c : Config) : SeqOp → Bool
  | .frame f => frameAllowed c f
  | .wait _ => true
  | .rst _ => false
  | .delay _ => true
  | .sendMem _ => true
  | .store _ _ => true
  | .plot _ _ _ => true
  | .life _ => false
  | .respond _ => false

theorem frameAllowed_listed (c : Config) (b : Byte) (h : b ∈ listedCommands) :
    frameAllowed c (.cmd b) = true := by simp [frameAllowed, h]

theorem frameAllowed_tempsel (c : Config) (f : Frame) (h : f ∈ c.tempselSeq) : frameAllowed c f = true := by
  cases f with
  | cmd b => simp [frameAllowed, h]
  | dat b => rfl

section
variable (c : Config)

theorem plain_append (l m : List SeqOp) (h : l.all (plainOp c) = true) (g : m.all (plainOp c) = true) :
    (l ++ m).all (plainOp c) = true := by rw [List.all_append, h, g]; rfl

theorem plain_frames (fs : List Frame) (h : ∀ f ∈ fs, frameAllowed c f = true) :
    (emitFramesOps fs).all (plainOp c) = true := by
  simp only [emitFramesOps, List.all_map, List.all_eq_true]
  exact h

theorem plain_sendBytes (bs : List Byte) : (sendBytesOps bs).all (plainOp c) = true := by
  simp [sendBytesOps, datOp, plainOp, frameAllowed]

theorem plain_sendBuffer (b : Byte) (base : Nat) (h : b ∈ listedCommands) :
    (sendBufferOps c b base).all (plainOp c) = true := by
  simp [sendBufferOps, cmdOp, plainOp, frameAllowed_listed c b h]

theorem plain_dataPhase (b : Byte) (buf : Buf) (h : b ∈ listedCommands) :
    (dataPhaseOps c b buf).all (plainOp c) = true := by
  cases buf with
  | none => rfl
  | some a => exact plain_sendBuffer c b _ h

theorem plain_sendWhite (b : Byte) (h : b ∈ listedCommands) : (sendWhiteOps c b).all (plainOp c) = true := by
  rw [List.all_eq_true]
  intro op hop
  simp only [sendWhiteOps, cmdOp, datOp, List.mem_cons, List.mem_replicate] at hop
  rcases hop with rfl | ⟨-, rfl⟩
  · exact frameAllowed_listed c b h
  · rfl

theorem plain_setArea (xs ys xe ye : Int) : (setAreaOps xs ys xe ye).all (plainOp c) = true := by
  simp [setAreaOps, cmdOp, datOp, plainOp, frameAllowed, listedCommands]

theorem plain_setPtr (x y : Int) : (setPtrOps x y).all (plainOp c) = true := by
  simp [setPtrOps, cmdOp, datOp, waitOps, plainOp, frameAllowed, listedCommands]

theorem plain_refreshFull : refreshFullOps.all (plainOp c) = true := by
  simp [refreshFullOps, cmdOp, datOp, waitOps, plainOp, frameAllowed, listedCommands]

theorem plain_refreshPart : refreshPartOps.all (plainOp c) = true := by
  simp [refreshPartOps, cmdOp, datOp, waitOps, plainOp, frameAllowed, listedCommands]

theorem plain_initWindow (mode : InitMode) : (initWindowOps c mode).all (plainOp c) = true := by
  cases mode <;> cases hy : c.yWindowReading <;>
    simp [initWindowOps, hy, setAreaOps, cmdOp, datOp, plainOp, frameAllowed, listedCommands]

theorem plain_blitData (base : Nat) (g : BlitGeom) : (blitDataOps base g).all (plainOp c) = true := by
  rw [List.all_eq_true]
  intro op hop
  simp only [blitDataOps, List.mem_flatMap, List.mem_map] at hop
  obtain ⟨j, -, i, -, rfl⟩ := hop
  rfl

theorem plain_clear (base : Nat) (v : Byte) : (clearOps c base v).all (plainOp c) = true := by
  simp [clearOps, plainOp]

theorem plain_plot (base : Nat) (x y : Int) (col : Bool) :
    (plotOps c base x y col).all (plainOp c) = true := by
  unfold plotOps; split <;> rfl

end

theorem allowed_of_plain (c : Config) (l : List SeqOp) (h : l.all (plainOp c) = true) :
    l.all (opAllowed c) = true := by
  rw [List.all_eq_true] at h ⊢
  intro op hop
  have := h op hop
  cases op <;> first | exact this | rfl

theorem lifeAndRst_append (l : Life) (r : Option Level) (o p : List SeqOp) :
    lifeAndRst l r (o ++ p) = lifeAndRst (lifeAndRst l r o).1 (lifeAndRst l r o).2 p := by
  induction o generalizing l r with
  | nil => rfl
  | cons op o ih => cases op <;> exact ih _ _

theorem lifeAndRst_plain (c : Config) (o : List SeqOp) (h : o.all (plainOp c) = true) (l : Life)
    (r : Option Level) : lifeAndRst l r o = (l, r) := by
  induction o with
  | nil => rfl
  | cons op o ih =>
    rw [List.all_cons, Bool.and_eq_true] at h
    cases op <;> first | exact ih h.2 | exact absurd h.1 (by simp [plainOp])

theorem body_of_plain (c : Config) (l : List SeqOp) (h : l.all (plainOp c) = true) : l.all bodyOp = true := by
  rw [List.all_eq_true] at h ⊢
  intro op hop
  have := h op hop
  cases op <;> first | rfl | exact absurd this (by simp [plainOp])

/-- What is said of the sequence `ops ++ [.respond r]` of request `i`. -/
structure RequestOps (i : Instr) (s : State) (ops : List SeqOp) (r : Response) : Prop where
  quiet : ∀ op ∈ ops, ∀ r, op ≠ .respond r
  allowed : ops.all (opAllowed s.cfg) = true
  lifeAndRst : Safety.lifeAndRst s.life s.rstL ops = (s.life, s.rstL) ∨
    Safety.lifeAndRst s.life s.rstL ops = (.initialized, some .high) ∨
    Safety.lifeAndRst s.life s.rstL ops = (.sleeping, some .low)
  ends : ops = [] ∨ ∃ body, ops ++ [.respond r] = body ++ closing i ∧ body.all bodyOp = true

theorem RequestOps.of_plain (i : Instr) (s : State) (ops : List SeqOp) (hi : closing i = [.respond respDone])
    (h : ops.all (plainOp s.cfg) = true) : RequestOps i s ops respDone where
  quiet := fun op hop r hr => by
    have := List.all_eq_true.1 h op hop
    rw [hr] at this; exact absurd this (by simp [plainOp])
  allowed := allowed_of_plain _ _ h
  lifeAndRst := .inl (lifeAndRst_plain _ _ h _ _)
  ends := .inr ⟨ops, by rw [hi], body_of_plain _ _ h⟩

/-- A request that only answers. -/
theorem RequestOps.only_answers (i : Instr) (s : State) (r : Response) : RequestOps i s [] r :=
  ⟨fun _ h => absurd h (by simp), rfl, .inl rfl, .inl rfl⟩

/-- INIT's operations between the reset pulse and the change of `LIFE`. -/
theorem plain_initBody (c : Config) (mode : InitMode) :
    ([cmdOp 0x12] ++ waitOps ++ [cmdOp 0x01] ++ sendBytesOps c.docPayload ++
      [cmdOp 0x11, datOp (demByte c mode)] ++ initWindowOps c mode ++ [cmdOp 0x3C] ++
      sendBytesOps c.borderPayload ++ emitFramesOps c.tempselSeq ++
      setPtrOps 0 (yOrigin c mode)).all (plainOp c) = true := by
  simp only [List.all_append, plain_sendBytes, plain_initWindow, plain_setPtr,
    plain_frames c c.tempselSeq (frameAllowed_tempsel c)]
  simp [cmdOp, datOp, waitOps, plainOp, frameAllowed, listedCommands]

theorem requestOps_init (s : State) (mode : InitMode) :
    ∃ ops, initOps s.cfg mode = ops ++ [.respond respDone] ∧ RequestOps (.init mode) s ops respDone := by
  have hbody := plain_initBody s.cfg mode
  generalize hb : ([cmdOp 0x12] ++ waitOps ++ [cmdOp 0x01] ++ sendBytesOps s.cfg.docPayload ++
      [cmdOp 0x11, datOp (demByte s.cfg mode)] ++ initWindowOps s.cfg mode ++ [cmdOp 0x3C] ++
      sendBytesOps s.cfg.borderPayload ++ emitFramesOps s.cfg.tempselSeq ++
      setPtrOps 0 (yOrigin s.cfg mode)) = body at hbody
  refine ⟨hwResetOps s.cfg ++ body ++ [.life .initialized], ?_, ?_, ?_, .inr (.inl ?_),
    .inr ⟨hwResetOps s.cfg ++ body, by simp [closing, respDone], ?_⟩⟩
  · rw [← hb]; simp [initOps]
  · intro op hop r hr
    subst hr
    simp only [List.mem_append, hwResetOps] at hop
    have := List.all_eq_true.1 hbody (.respond r)
    simp [plainOp] at hop this
    exact this hop
  · simp only [List.all_append, allowed_of_plain _ _ hbody]
    simp [hwResetOps, opAllowed]
  · rw [lifeAndRst_append, lifeAndRst_append, lifeAndRst_plain s.cfg body hbody]
    rfl
  · rw [List.all_append, body_of_plain _ _ hbody]; rfl

/-- Every request runs a sequence that ends with its one response. -/
theorem exec_request (i : Instr) (s : State) (h : i.isRequest = true) :
    ∃ ops r u, exec i s = .next (runOps (ops ++ [.respond r]) u) ∧ RequestOps i s ops r ∧ Start s u := by
  have ignored : ∃ ops r u, (Host.Outcome.next (noop s) : Host.Outcome State Fault Refusal) =
      .next (runOps (ops ++ [.respond r]) u) ∧ RequestOps i s ops r ∧ Start s u :=
    ⟨[], respDone, s, rfl, .only_answers _ _ _, .same⟩
  have bank1 : (0x24 : Byte) ∈ listedCommands := by decide
  have bank2 : (0x26 : Byte) ∈ listedCommands := by decide
  cases i with
  | init mode =>
    show ∃ ops r u, Host.Outcome.next (runOps (initAfter s.cfg mode (upResult s)) (bringUp s)) = _ ∧ _
    cases upResult s with
    | failure => exact ⟨[], respFail, _, rfl, .only_answers _ _ _, .up⟩
    | success =>
      obtain ⟨ops, ho, hr⟩ := requestOps_init s mode
      exact ⟨ops, respDone, _, by rw [initAfter, ho], hr, .up⟩
  | wrfull buf =>
    exact ⟨_, _, _, rfl, .of_plain _ _ _ rfl (plain_append _ _ _ (plain_dataPhase _ _ _ bank1)
      (plain_refreshFull _)), .mark⟩
  | wrbase buf =>
    exact ⟨_, _, _, rfl, .of_plain _ _ _ rfl (plain_append _ _ _ (plain_append _ _ _
      (plain_dataPhase _ _ _ bank1) (plain_dataPhase _ _ _ bank2)) (plain_refreshFull _)), .mark⟩
  | wrwhite =>
    exact ⟨_, _, _, rfl, .of_plain _ _ _ rfl (plain_append _ _ _ (plain_append _ _ _
      (plain_sendWhite _ _ bank1) (plain_sendWhite _ _ bank2)) (plain_refreshFull _)), .mark⟩
  | wrpart buf =>
    exact ⟨_, _, _, rfl, .of_plain _ _ _ rfl (plain_append _ _ _ (plain_dataPhase _ _ _ bank1)
      (plain_refreshPart _)), .mark⟩
  | blit buf x y wd ht =>
    cases buf with
    | none => exact ignored
    | some a =>
      show ∃ ops r u, Host.Outcome.next (blitAt _ _ _ _ _ _) = _ ∧ _
      unfold blitAt
      split
      · exact ⟨_, _, _, rfl, .of_plain _ _ _ rfl (plain_append _ _ _ (plain_append _ _ _ (plain_append _ _ _
          (plain_setArea _ _ _ _ _) (plain_setPtr _ _ _)) (by
            simp [cmdOp, plainOp, frameAllowed, listedCommands])) (plain_blitData _ _ _)), .mark⟩
      · exact ignored
  | sleep =>
    refine ⟨[cmdOp 0x10, datOp s.cfg.dsPayload] ++ waitOps ++ [.rst .low, .life .sleeping], respDone, _,
      rfl, ⟨?_, ?_, .inr (.inr rfl), .inr ⟨[cmdOp 0x10, datOp s.cfg.dsPayload] ++ waitOps ++ [.rst .low], rfl, rfl⟩⟩, .mark⟩
    · intro op hop r hr
      subst hr
      simp [cmdOp, datOp, waitOps] at hop
    · simp [cmdOp, datOp, waitOps, opAllowed, frameAllowed, listedCommands]
  | fbclear buf col =>
    cases buf with
    | none => exact ignored
    | some a => exact ⟨_, _, _, rfl, .of_plain _ _ _ rfl (plain_clear _ _ _), .same⟩
  | fbsetpix buf x y col =>
    cases buf with
    | none => exact ignored
    | some a =>
      show ∃ ops r u, Host.Outcome.next (setPixAt _ _ _ _ _) = _ ∧ _
      unfold setPixAt
      split
      · exact ⟨_, _, _, rfl, .of_plain _ _ _ rfl (plain_plot _ _ _ _ _), .same⟩
      · exact ignored
  | fbsetabs buf x y col =>
    cases buf with
    | none => exact ignored
    | some a => exact ⟨_, _, _, rfl, .of_plain _ _ _ rfl (plain_plot _ _ _ _ _), .same⟩
  | setrot v => exact ⟨[], _, _, rfl, .only_answers _ _ _, .rot v⟩
  | rddim => exact ⟨[], _, _, rfl, .only_answers _ _ _, .same⟩
  | _ => exact absurd h (by simp [Instr.isRequest])

/-- Every wire frame is emitted. -/
theorem exec_wireFrame (i : Instr) (s : State) (h : i.isRequest = false) :
    ∃ f, exec i s = .next (sendFrame f s) ∧ decodeFrame f = .ok i := by
  cases i <;> simp [Instr.isRequest] at h
  case data b => exact ⟨.dat b, rfl, rfl⟩
  case cmdDriverOutputControl => exact ⟨.cmd 0x01, rfl, rfl⟩
  case cmdDeepSleep => exact ⟨.cmd 0x10, rfl, rfl⟩
  case cmdDataEntryMode => exact ⟨.cmd 0x11, rfl, rfl⟩
  case cmdSoftwareReset => exact ⟨.cmd 0x12, rfl, rfl⟩
  case cmdMasterActivation => exact ⟨.cmd 0x20, rfl, rfl⟩
  case cmdDisplayUpdateControl2 => exact ⟨.cmd 0x22, rfl, rfl⟩
  case cmdWriteRamBank1 => exact ⟨.cmd 0x24, rfl, rfl⟩
  case cmdWriteRamBank2 => exact ⟨.cmd 0x26, rfl, rfl⟩
  case cmdBorderWaveformControl => exact ⟨.cmd 0x3C, rfl, rfl⟩
  case cmdRamXWindow => exact ⟨.cmd 0x44, rfl, rfl⟩
  case cmdRamYWindow => exact ⟨.cmd 0x45, rfl, rfl⟩
  case cmdRamXCounter => exact ⟨.cmd 0x4E, rfl, rfl⟩
  case cmdRamYCounter => exact ⟨.cmd 0x4F, rfl, rfl⟩

/-- What a request's start leaves as it was. -/
theorem Start.fixed {s u : State} (h : Start s u) :
    u.cfg = s.cfg ∧ u.refused = s.refused ∧ u.port = s.port ∧ u.responses = s.responses ∧
      u.latched = s.latched ∧ u.life = s.life ∧ (s.misuse = true → u.misuse = true) := by
  cases h
  · exact ⟨rfl, rfl, rfl, rfl, rfl, rfl, id⟩
  · exact ⟨rfl, rfl, rfl, rfl, rfl, rfl, fun h => by simp [markMisuse, h]⟩
  · exact ⟨rfl, rfl, rfl, rfl, rfl, rfl, id⟩
  · exact ⟨rfl, rfl, rfl, rfl, rfl, rfl, id⟩

/-- What a request's start performs: nothing, or the bring-up. -/
theorem Start.performed {s u : State} (h : Start s u) :
    ∃ l, Performed s u l ∧ framesOk (linkAllowed s.cfg) l = true ∧ u.life = s.life ∧ u.rstL = s.rstL := by
  cases h
  · exact ⟨[], performed_nothing _ _ rfl rfl rfl rfl rfl, rfl, rfl, rfl⟩
  · exact ⟨[], performed_nothing _ _ rfl rfl rfl rfl rfl, rfl, rfl, rfl⟩
  · exact ⟨_, performed_bringUp s, rfl, rfl, rfl⟩
  · exact ⟨[], performed_nothing _ _ rfl rfl rfl rfl rfl, rfl, rfl, rfl⟩

/-- The request decoder answers requests only. -/
theorem decodeRequest_isRequest (c : Config) (r : Request) (i : Instr) (h : decodeRequest c r = .ok i) :
    i.isRequest = true := by
  simp only [decodeRequest] at h
  split at h
  · simp at h
  · split at h
    · simp at h
    · rename_i op _
      simp only [decodeFields] at h
      split at h; simp at h
      split at h; simp at h
      split at h; simp at h
      split at h; simp at h
      rw [← Except.ok.inj h]
      cases op <;> rfl

end Sys2Proof.Machine
end

