-- ==== Sys2Proof/Laws/PerInstr.lean ====
section
/-! SUPPORT. The families of statements made for every instruction, one lemma per constructor. -/

namespace Sys2Proof.Laws

open Sys2Proof

/-- An instruction is encoded in its own space (R70): a request with its reserved bits 0 and an assigned opcode (R71, R74),
or a wire frame (R76). -/
def EncodedOpcode.Statement (i : Instr) : Prop :=
  match encode i with
  | .request r => i.isRequest = true ∧ fieldReserved r = 0 ∧ (opcodeOf (fieldOpc r)).isSome = true
  | .frame _ => i.isRequest = false

/-- The word w0 of every request has its reserved bits 0. -/
theorem packW0_reserved (opc : Byte) (bv col mode : Bool) (rot : BitVec 2) :
    (packW0 opc bv col mode rot).extractLsb' 13 19 = 0 := by
  ext i hi
  simp [packW0, BitVec.getLsbD_of_ge, show 8 ≤ 13 + i by omega, show 2 ≤ 13 + i - 11 by omega]
  refine ⟨⟨?_, ?_⟩, ?_⟩ <;> (intros; omega)

/-- The word w0 of every request holds its opcode. -/
theorem packW0_opcode (opc : Byte) (bv col mode : Bool) (rot : BitVec 2) :
    (packW0 opc bv col mode rot).extractLsb' 0 8 = opc := by
  ext i hi
  simp [packW0, hi, show i < 9 by omega, show i < 10 by omega, show i < 11 by omega, show i < 32 by omega]

theorem EncodedOpcode.init (mode : InitMode) : EncodedOpcode.Statement (.init mode) :=
  ⟨rfl, packW0_reserved _ _ _ _ _, by
    show (opcodeOf ((packW0 _ _ _ _ _).extractLsb' 0 8)).isSome = true
    rw [packW0_opcode]; rfl⟩

theorem EncodedOpcode.wrfull (buf : Buf) : EncodedOpcode.Statement (.wrfull buf) :=
  ⟨rfl, packW0_reserved _ _ _ _ _, by
    show (opcodeOf ((packW0 _ _ _ _ _).extractLsb' 0 8)).isSome = true
    rw [packW0_opcode]; rfl⟩

theorem EncodedOpcode.wrbase (buf : Buf) : EncodedOpcode.Statement (.wrbase buf) :=
  ⟨rfl, packW0_reserved _ _ _ _ _, by
    show (opcodeOf ((packW0 _ _ _ _ _).extractLsb' 0 8)).isSome = true
    rw [packW0_opcode]; rfl⟩

theorem EncodedOpcode.wrwhite : EncodedOpcode.Statement (.wrwhite) :=
  ⟨rfl, packW0_reserved _ _ _ _ _, by
    show (opcodeOf ((packW0 _ _ _ _ _).extractLsb' 0 8)).isSome = true
    rw [packW0_opcode]; rfl⟩

theorem EncodedOpcode.wrpart (buf : Buf) : EncodedOpcode.Statement (.wrpart buf) :=
  ⟨rfl, packW0_reserved _ _ _ _ _, by
    show (opcodeOf ((packW0 _ _ _ _ _).extractLsb' 0 8)).isSome = true
    rw [packW0_opcode]; rfl⟩

theorem EncodedOpcode.blit (buf : Buf) (x y wd ht : Word) : EncodedOpcode.Statement (.blit buf x y wd ht) :=
  ⟨rfl, packW0_reserved _ _ _ _ _, by
    show (opcodeOf ((packW0 _ _ _ _ _).extractLsb' 0 8)).isSome = true
    rw [packW0_opcode]; rfl⟩

theorem EncodedOpcode.sleep : EncodedOpcode.Statement (.sleep) :=
  ⟨rfl, packW0_reserved _ _ _ _ _, by
    show (opcodeOf ((packW0 _ _ _ _ _).extractLsb' 0 8)).isSome = true
    rw [packW0_opcode]; rfl⟩

theorem EncodedOpcode.fbclear (buf : Buf) (col : Bool) : EncodedOpcode.Statement (.fbclear buf col) :=
  ⟨rfl, packW0_reserved _ _ _ _ _, by
    show (opcodeOf ((packW0 _ _ _ _ _).extractLsb' 0 8)).isSome = true
    rw [packW0_opcode]; rfl⟩

theorem EncodedOpcode.fbsetpix (buf : Buf) (x y : Word) (col : Bool) : EncodedOpcode.Statement (.fbsetpix buf x y col) :=
  ⟨rfl, packW0_reserved _ _ _ _ _, by
    show (opcodeOf ((packW0 _ _ _ _ _).extractLsb' 0 8)).isSome = true
    rw [packW0_opcode]; rfl⟩

theorem EncodedOpcode.fbsetabs (buf : Buf) (x y : Word) (col : Bool) : EncodedOpcode.Statement (.fbsetabs buf x y col) :=
  ⟨rfl, packW0_reserved _ _ _ _ _, by
    show (opcodeOf ((packW0 _ _ _ _ _).extractLsb' 0 8)).isSome = true
    rw [packW0_opcode]; rfl⟩

theorem EncodedOpcode.setrot (rot : BitVec 2) : EncodedOpcode.Statement (.setrot rot) :=
  ⟨rfl, packW0_reserved _ _ _ _ _, by
    show (opcodeOf ((packW0 _ _ _ _ _).extractLsb' 0 8)).isSome = true
    rw [packW0_opcode]; rfl⟩

theorem EncodedOpcode.rddim : EncodedOpcode.Statement (.rddim) :=
  ⟨rfl, packW0_reserved _ _ _ _ _, by
    show (opcodeOf ((packW0 _ _ _ _ _).extractLsb' 0 8)).isSome = true
    rw [packW0_opcode]; rfl⟩

theorem EncodedOpcode.cmdDriverOutputControl : EncodedOpcode.Statement .cmdDriverOutputControl := rfl

theorem EncodedOpcode.cmdDeepSleep : EncodedOpcode.Statement .cmdDeepSleep := rfl

theorem EncodedOpcode.cmdDataEntryMode : EncodedOpcode.Statement .cmdDataEntryMode := rfl

theorem EncodedOpcode.cmdSoftwareReset : EncodedOpcode.Statement .cmdSoftwareReset := rfl

theorem EncodedOpcode.cmdMasterActivation : EncodedOpcode.Statement .cmdMasterActivation := rfl

theorem EncodedOpcode.cmdDisplayUpdateControl2 : EncodedOpcode.Statement .cmdDisplayUpdateControl2 := rfl

theorem EncodedOpcode.cmdWriteRamBank1 : EncodedOpcode.Statement .cmdWriteRamBank1 := rfl

theorem EncodedOpcode.cmdWriteRamBank2 : EncodedOpcode.Statement .cmdWriteRamBank2 := rfl

theorem EncodedOpcode.cmdBorderWaveformControl : EncodedOpcode.Statement .cmdBorderWaveformControl := rfl

theorem EncodedOpcode.cmdRamXWindow : EncodedOpcode.Statement .cmdRamXWindow := rfl

theorem EncodedOpcode.cmdRamYWindow : EncodedOpcode.Statement .cmdRamYWindow := rfl

theorem EncodedOpcode.cmdRamXCounter : EncodedOpcode.Statement .cmdRamXCounter := rfl

theorem EncodedOpcode.cmdRamYCounter : EncodedOpcode.Statement .cmdRamYCounter := rfl

theorem EncodedOpcode.data (b : Byte) : EncodedOpcode.Statement (.data b) := rfl

end Sys2Proof.Laws
end

