-- ==== Sys2Proof/Laws/Progress.lean ====
section
/-! SUPPORT. A request from its start to its end or to where it stands: what its operations before the end leave alone, and
what a run of the rest of it can come to. -/

namespace Sys2Proof.Machine

open Sys2Proof Safety

theorem pollUpTo_request (n : Nat) (s : State) : (pollUpTo n s).latched = s.latched ∧
    (pollUpTo n s).responses = s.responses ∧ (pollUpTo n s).life = s.life := by
  rcases pollUpTo_eq n s with ⟨k, -, -, -, h⟩ | ⟨-, h⟩ <;> rw [h] <;> exact ⟨rfl, rfl, rfl⟩

/-- An operation before the end of a request leaves the latched request, the responses and `LIFE` alone. -/
theorem fire_body (op : SeqOp) (s t : State) (hb : bodyOp op = true) (h : fire op s = .done t) :
    t.latched = s.latched ∧ t.responses = s.responses ∧ t.life = s.life := by
  cases op with
  | frame f => rw [← Fired.done.inj h]; exact ⟨rfl, rfl, rfl⟩
  | wait i =>
    simp only [fire, fireWait] at h
    split at h
    · rw [← Fired.done.inj h]; exact pollUpTo_request _ _
    · split at h
      · simp at h
      · rw [← Fired.done.inj h]; exact ⟨rfl, rfl, rfl⟩
  | rst l => rw [← Fired.done.inj h]; exact ⟨rfl, rfl, rfl⟩
  | delay ms => rw [← Fired.done.inj h]; exact ⟨rfl, rfl, rfl⟩
  | sendMem a => obtain ⟨-, rfl⟩ := fireAccess_done _ _ _ _ _ h; exact ⟨rfl, rfl, rfl⟩
  | store a v => obtain ⟨-, rfl⟩ := fireAccess_done _ _ _ _ _ h; exact ⟨rfl, rfl, rfl⟩
  | plot a m col => obtain ⟨-, rfl⟩ := fireAccess_done _ _ _ _ _ h; exact ⟨rfl, rfl, rfl⟩
  | life l => simp [bodyOp] at hb
  | respond r => simp [bodyOp] at hb

/-- The end of a request, which nothing can hold up. -/
theorem runOps_closing (i : Instr) (s : State) (hi : i.isRequest = true) :
    runOps (closing i) s = endRequest ((s.setLife (lifeAfter i s.life)).addResponse ⟨0, 0⟩) := by
  cases i with
  | init mode => cases mode <;> rfl
  | _ => first | rfl | exact absurd hi (by simp [Instr.isRequest])

/-- The rest of a request, from anywhere before its end: it ends, with its response and the `LIFE` it leaves; or it stands at
an access or in an unbounded wait, with nothing answered yet (R220). -/
theorem runOps_request (i : Instr) (body : List SeqOp) (s : State) (hi : i.isRequest = true)
    (hb : body.all bodyOp = true) :
    (Idle (runOps (body ++ closing i) s) ∧ (runOps (body ++ closing i) s).latched = none ∧
      (runOps (body ++ closing i) s).responses = s.responses ++ [⟨0, 0⟩] ∧
      (runOps (body ++ closing i) s).life = lifeAfter i s.life) ∨
    ((runOps (body ++ closing i) s).latched = s.latched ∧
      (runOps (body ++ closing i) s).responses = s.responses ∧ (runOps (body ++ closing i) s).life = s.life ∧
      (∃ left, (runOps (body ++ closing i) s).seq = left ++ closing i ∧ left ≠ [] ∧ left.all bodyOp = true) ∧
      ((∃ a, StuckAt (runOps (body ++ closing i) s) a) ∨ Waiting (runOps (body ++ closing i) s))) := by
  induction body generalizing s with
  | nil =>
    rw [List.nil_append, runOps_closing i s hi]
    exact .inl ⟨rfl, rfl, rfl, rfl⟩
  | cons op body ih =>
    rw [List.all_cons, Bool.and_eq_true] at hb
    rw [List.cons_append]
    rcases fire_cases op s with ⟨t, ht⟩ | ⟨a, ha, hn, ht⟩ | ⟨j, -, hn, ht⟩
    · rw [runOps_of_done _ _ _ _ ht]
      obtain ⟨h1, h2, h3⟩ := fire_body op s t hb.1 ht
      rw [← h1, ← h2, ← h3]
      exact ih t hb.2
    · rw [runOps_of_hold _ _ _ _ _ ht]
      refine .inr ⟨rfl, rfl, rfl, ⟨op :: body, rfl, by simp, ?_⟩, .inl ⟨a, _, _, rfl, ha, hn⟩⟩
      rw [List.all_cons, hb.1, hb.2]; rfl
    · rw [runOps_of_hold _ _ _ _ _ ht]
      refine .inr ⟨rfl, rfl, rfl, ⟨.wait (j + 1) :: body, rfl, by simp, ?_⟩, .inr ⟨hn, _, _, rfl⟩⟩
      rw [List.all_cons, hb.2]; rfl

/-- Every request either answers at once, or runs its operations and then its end. -/
theorem exec_body (i : Instr) (s : State) (h : i.isRequest = true) :
    ∃ u, Start s u ∧ ((∃ r, exec i s = .next (endRequest (u.addResponse r))) ∨
      ∃ body, body.all bodyOp = true ∧ exec i s = .next (runOps (body ++ closing i) u)) := by
  obtain ⟨ops, r, u, he, hr, hu⟩ := exec_request i s h
  refine ⟨u, hu, ?_⟩
  rcases hr.ends with rfl | ⟨body, hb, hall⟩
  · exact .inl ⟨r, he⟩
  · exact .inr ⟨body, hall, by rw [← hb]; exact he⟩

/-- A wait that has just begun, on a busy panel without a poll bound, is left standing. -/
theorem runOps_wait_busy (ops : List SeqOp) (s : State) (hn : s.cfg.busyMaxPolls = none)
    (hb : answerAt s 0 = s.cfg.busyActiveLevel) : runOps (.wait 0 :: ops) s = leftWaiting [] ops s := by
  rw [runOps_of_hold (.wait 0) _ ops s _ (show fire (.wait 0) s = _ from fireWait_holds 0 s hn hb)]
  simp [leftWaiting, State.addLog, State.setSeq, afterSamples]

end Sys2Proof.Machine
end

