-- ==== Sys2Proof/Tests/Slice0.lean ====
section
/-! SUPPORT. The model's own tests, their expected results taken from spec/95_test_vectors.md (the vector is named in each
docstring), the WellFormed smoke tests, and one witness for every obligation that has hypotheses. -/

namespace Sys2Proof.Tests

open Sys2Proof Machine Safety

/-! Helpers. -/

/-- MINICFG with the four durations R7 leaves open set to numbers, so that events compare. -/
def cfg : Config := { Config.mini with busyPollMs := 10, tRstHigh1 := 20, tRstLow := 2, tRstHigh2 := 20 }

/-- A 16 × 8 panel (V-FB16 to V-FB20). -/
def cfg8 : Config := { cfg with height := 8 }

/-- MINICFG without a poll bound. -/
def cfgU : Config := { cfg with busyMaxPolls := none }

/-- MINICFG with `MEM_ADMIT` = `[0x1000, 0x1004)` (V-WR9). -/
def cfg4 : Config := { cfg with memAdmit := [⟨0x1000, 4⟩] }

/-- The buffer of V-WR. -/
def buf : Memory :=
  [(0x1000, 0x7F), (0x1001, 0xFF), (0x1002, 0xFF), (0x1003, 0xFF), (0x1004, 0xFF), (0x1005, 0xFF),
   (0x1006, 0xFF), (0x1007, 0xFE)]

/-- A state between requests, initialised, whose busy samples read idle. -/
def st (c : Config) : State :=
  { State.resetWith c with life := .initialized, mem := buf, busyAnswers := [.low, .low, .low], upAnswers := [.success] }

/-- The log after an outcome. -/
def logOf : Host.Outcome State Fault Refusal → List Act
  | .next t => t.log
  | .fault _ => []
  | .refused _ => []

/-- The responses after an outcome. -/
def respOf : Host.Outcome State Fault Refusal → List Response
  | .next t => t.responses
  | .fault _ => []
  | .refused _ => []

/-- A byte of memory after an outcome. -/
def byteOf (a : Nat) : Host.Outcome State Fault Refusal → Option Byte
  | .next t => some (readByte t.mem a)
  | .fault _ => none
  | .refused _ => none

/-- The events of `Cbb` under MINICFG. -/
def C (b : Byte) : List Act := [.ev (.setPin .dc .low), .ev (.xfer b)]

/-- The events of `Dbb` under MINICFG. -/
def D (b : Byte) : List Act := [.ev (.setPin .dc .high), .ev (.xfer b)]

/-- A data frame carrying a byte read from memory. -/
def DM (a : Nat) (b : Byte) : List Act := .rd a b :: D b

/-- `W`: one idle sample. -/
def W : List Act := [.ev (.sample .low)]

/-- A busy sample and its delay. -/
def H : List Act := [.ev (.sample .high), .ev (.delay 10)]

/-! Decoding, one word written out for every constructor (V-DEC, V-WIRE), and the refusals. -/

theorem test_dec_init_low : decodeRequest Config.ref ⟨0x00000001, 0, 0, 0, 0, 0⟩ = .ok (.init .lowDir) := by decide
theorem test_dec_init_high : decodeRequest Config.ref ⟨0x00000401, 0, 0, 0, 0, 0⟩ = .ok (.init .highDir) := by decide
theorem test_dec_wrfull : decodeRequest Config.ref ⟨0x00000102, 0x1000, 0, 0, 0, 0⟩ = .ok (.wrfull (some 0x1000)) := by decide
theorem test_dec_redraw : decodeRequest Config.ref ⟨0x00000002, 0, 0, 0, 0, 0⟩ = .ok (.wrfull none) := by decide
theorem test_dec_wrfull_zero : decodeRequest Config.ref ⟨0x00000102, 0, 0, 0, 0, 0⟩ = .ok (.wrfull (some 0)) := by decide
theorem test_dec_wrbase : decodeRequest Config.ref ⟨0x00000103, 0x1000, 0, 0, 0, 0⟩ = .ok (.wrbase (some 0x1000)) := by decide
theorem test_dec_wrwhite : decodeRequest Config.ref ⟨0x00000004, 0, 0, 0, 0, 0⟩ = .ok .wrwhite := by decide
theorem test_dec_wrpart : decodeRequest Config.ref ⟨0x00000105, 0x1000, 0, 0, 0, 0⟩ = .ok (.wrpart (some 0x1000)) := by decide
theorem test_dec_blit : decodeRequest Config.ref ⟨0x00000106, 0x1000, 3, 0, 0xD, 1⟩ = .ok (.blit (some 0x1000) 3 0 13 1) := by decide
theorem test_dec_blit_negative : decodeRequest Config.ref ⟨0x00000106, 0x1000, 0xFFFFFFFF, 0, 8, 8⟩ = .ok (.blit (some 0x1000) (-1) 0 8 8) := by decide
theorem test_dec_sleep : decodeRequest Config.ref ⟨0x00000007, 0, 0, 0, 0, 0⟩ = .ok .sleep := by decide
theorem test_dec_fbclear : decodeRequest Config.ref ⟨0x00000310, 0x1000, 0, 0, 0, 0⟩ = .ok (.fbclear (some 0x1000) true) := by decide
theorem test_dec_fbsetpix : decodeRequest Config.ref ⟨0x00000311, 0x1000, 2, 5, 0, 0⟩ = .ok (.fbsetpix (some 0x1000) 2 5 true) := by decide
theorem test_dec_fbsetabs : decodeRequest Config.ref ⟨0x00000112, 0x1000, 0xF, 3, 0, 0⟩ = .ok (.fbsetabs (some 0x1000) 15 3 false) := by decide
theorem test_dec_setrot : decodeRequest Config.ref ⟨0x00000813, 0, 0, 0, 0, 0⟩ = .ok (.setrot 1) ∧
    decodeRequest Config.ref ⟨0x00001013, 0, 0, 0, 0, 0⟩ = .ok (.setrot 2) := by decide
theorem test_dec_rddim : decodeRequest Config.ref ⟨0x00000014, 0, 0, 0, 0, 0⟩ = .ok .rddim := by decide

/-- V-WIRE: the thirteen commands and a data frame, as 9-bit values. -/
theorem test_dec_frames :
    decode Config.ref (.frame 0x001) = .ok .cmdDriverOutputControl ∧ decode Config.ref (.frame 0x010) = .ok .cmdDeepSleep ∧
    decode Config.ref (.frame 0x011) = .ok .cmdDataEntryMode ∧ decode Config.ref (.frame 0x012) = .ok .cmdSoftwareReset ∧
    decode Config.ref (.frame 0x020) = .ok .cmdMasterActivation ∧
    decode Config.ref (.frame 0x022) = .ok .cmdDisplayUpdateControl2 ∧
    decode Config.ref (.frame 0x024) = .ok .cmdWriteRamBank1 ∧ decode Config.ref (.frame 0x026) = .ok .cmdWriteRamBank2 ∧
    decode Config.ref (.frame 0x03C) = .ok .cmdBorderWaveformControl ∧ decode Config.ref (.frame 0x044) = .ok .cmdRamXWindow ∧
    decode Config.ref (.frame 0x045) = .ok .cmdRamYWindow ∧ decode Config.ref (.frame 0x04E) = .ok .cmdRamXCounter ∧
    decode Config.ref (.frame 0x04F) = .ok .cmdRamYCounter ∧ decode Config.ref (.frame 0x1F7) = .ok (.data 0xF7) := by decide

/-- A command byte R77 does not list: the 0x18 of the reference TEMPSEL_SEQ. -/
theorem test_dec_unlisted : decode Config.ref (.frame 0x018) = .error .unlistedCommand := by decide

/-- V-DEC16, V-DEC17: unassigned opcodes, and that check before the reserved bits. -/
theorem test_dec_unassigned : ∀ w ∈ [0x00, 0x08, 0x0F, 0x15, 0xFF, 0x2008],
    decodeRequest Config.ref ⟨BitVec.ofNat 32 w, 0, 0, 0, 0, 0⟩ = .error .unassignedOpcode := by decide

/-- V-DEC18. -/
theorem test_dec_reserved : decodeRequest Config.ref ⟨0x00002001, 0, 0, 0, 0, 0⟩ = .error .reservedBits := by decide

/-- V-DEC19 to V-DEC22. -/
theorem test_dec_unused :
    decodeRequest Config.ref ⟨0x00000101, 0, 0, 0, 0, 0⟩ = .error .unusedFieldNonzero ∧
    decodeRequest Config.ref ⟨0x00000001, 5, 0, 0, 0, 0⟩ = .error .unusedFieldNonzero ∧
    decodeRequest Config.ref ⟨0x00000213, 0, 0, 0, 0, 0⟩ = .error .unusedFieldNonzero ∧
    decodeRequest Config.ref ⟨0x00000302, 0x1000, 0, 0, 0, 0⟩ = .error .unusedFieldNonzero := by decide

/-- V-DEC23. -/
theorem test_dec_null : decodeRequest Config.ref ⟨0x00000002, 0x1000, 0, 0, 0, 0⟩ = .error .nullWithAddress := by decide

/-- V-DEC24. -/
theorem test_dec_wide : decodeRequest { Config.ref with addrBits := 16, memAdmit := [] } ⟨0x00000102, 0x10000, 0, 0, 0, 0⟩ =
    .error .addressTooWide := by decide

/-- A table word of every width the table gives: a request row, a frame row. -/
theorem test_table_words : decodeTableWord 8 0x07 = some .sleep ∧ decodeTableWord 16 0x04F = some .cmdRamYCounter ∧
    decodeTableWord 16 0x1FF = some (.data 0xFF) ∧ decodeTableWord 8 0x15 = none := by decide

/-! WellFormed: an ill-formed term for each check. -/

theorem test_wf_address : Instr.wf { Config.ref with addrBits := 16 } (.wrfull (some 0x10000)) = false ∧
    Instr.wf { Config.ref with addrBits := 16 } (.wrfull (some 0xFFFF)) = true ∧
    Instr.wf { Config.ref with addrBits := 16 } (.fbclear (some 0x10000) true) = false := by decide

/-- Each constraint of R7 broken once (D5). -/
theorem test_config_refused :
    configOk cfg = true ∧ configOk { cfg with width := 0 } = false ∧ configOk { cfg with width := 2056 } = false ∧
    configOk { cfg with width := 12 } = false ∧ configOk { cfg with height := 0 } = false ∧
    configOk { cfg with height := 65537 } = false ∧ configOk { cfg with addrBits := 0, memAdmit := [] } = false ∧
    configOk { cfg with addrBits := 33 } = false ∧ configOk { cfg with memAdmit := [⟨1, 4294967296⟩] } = false ∧
    configOk { cfg with busyMaxPolls := some 0 } = false ∧ configOk { cfg with docPayload := [] } = false ∧
    configOk { cfg with demHigh := 3 } = false ∧ configOk { cfg with borderPayload := [] } = false ∧
    configOk { cfg with tempselSeq := [] } = false := by decide

theorem test_config_named : configOk Config.ref = true ∧ configOk Config.mini = true := by decide

/-! One step of each instruction. -/

/-- V-INIT6. -/
theorem test_init_high : logOf (exec (.init .highDir) (st cfg)) =
    [.ev (.bringUp .success), .ev (.setPin .rst .high), .ev (.delay 20), .ev (.setPin .rst .low), .ev (.delay 2),
      .ev (.setPin .rst .high), .ev (.delay 20)] ++ C 0x12 ++ W ++ C 0x01 ++ D 0x03 ++ D 0x00 ++ D 0x01 ++
    C 0x11 ++ D 0x01 ++ C 0x44 ++ D 0x00 ++ D 0x01 ++ C 0x45 ++ D 0x03 ++ D 0x00 ++ D 0x00 ++ D 0x00 ++
    C 0x3C ++ D 0x01 ++ C 0x18 ++ D 0x80 ++ C 0x22 ++ D 0xB1 ++ C 0x20 ++
    C 0x4E ++ D 0x00 ++ C 0x4F ++ D 0x03 ++ D 0x00 ++ W := by decide

/-- V-INIT4. -/
theorem test_init_fails :
    logOf (exec (.init .lowDir) { st cfg with upAnswers := [.failure] }) = [.ev (.bringUp .failure)] ∧
    respOf (exec (.init .lowDir) { st cfg with upAnswers := [.failure] }) = [⟨1, 0⟩] := by decide

/-- V-WR1. -/
theorem test_wrfull : logOf (exec (.wrfull (some 0x1000)) (st cfg)) =
    C 0x24 ++ DM 0x1000 0x7F ++ DM 0x1001 0xFF ++ DM 0x1002 0xFF ++ DM 0x1003 0xFF ++ DM 0x1004 0xFF ++
    DM 0x1005 0xFF ++ DM 0x1006 0xFF ++ DM 0x1007 0xFE ++ C 0x22 ++ D 0xF7 ++ C 0x20 ++ W := by decide

/-- V-WR10: the wait gives up after two busy samples, and the response is DONE all the same. -/
theorem test_wrfull_gives_up :
    logOf (exec (.wrfull none) { st cfg with busyAnswers := [.high, .high] }) = C 0x22 ++ D 0xF7 ++ C 0x20 ++ H ++ H ∧
    respOf (exec (.wrfull none) { st cfg with busyAnswers := [.high, .high] }) = [⟨0, 0⟩] := by decide

/-- V-WR3, the second bank. -/
theorem test_wrbase : (logOf (exec (.wrbase (some 0x1000)) (st cfg))).drop 26 =
    C 0x26 ++ DM 0x1000 0x7F ++ DM 0x1001 0xFF ++ DM 0x1002 0xFF ++ DM 0x1003 0xFF ++ DM 0x1004 0xFF ++
    DM 0x1005 0xFF ++ DM 0x1006 0xFF ++ DM 0x1007 0xFE ++ C 0x22 ++ D 0xF7 ++ C 0x20 ++ W := by decide

/-- V-WR4. -/
theorem test_wrbase_null : logOf (exec (.wrbase none) (st cfg)) = C 0x22 ++ D 0xF7 ++ C 0x20 ++ W := by decide

/-- V-WR5. -/
theorem test_wrwhite : logOf (exec .wrwhite (st cfg)) =
    C 0x24 ++ (List.replicate 8 (D 0xFF)).flatten ++ C 0x26 ++ (List.replicate 8 (D 0xFF)).flatten ++
    C 0x22 ++ D 0xF7 ++ C 0x20 ++ W := by decide

/-- V-WR6: the partial dispatch. -/
theorem test_wrpart : (logOf (exec (.wrpart (some 0x1000)) (st cfg))).drop 26 =
    C 0x22 ++ D 0xFF ++ C 0x20 ++ W := by decide

/-- V-WR7. -/
theorem test_wrpart_null : logOf (exec (.wrpart none) (st cfg)) = C 0x22 ++ D 0xFF ++ C 0x20 ++ W := by decide

/-- P3, step 4: clamped both ways, one byte sent. -/
theorem test_blit_clamped : logOf (exec (.blit (some 0x1000) 8 3 16 4) (st cfg)) =
    C 0x44 ++ D 0x01 ++ D 0x01 ++ C 0x45 ++ D 0x03 ++ D 0x00 ++ D 0x03 ++ D 0x00 ++ C 0x4E ++ D 0x01 ++
    C 0x4F ++ D 0x03 ++ D 0x00 ++ W ++ C 0x24 ++ DM 0x1000 0x7F := by decide

/-- V-BL9 (MISUSE untouched) and V-BL3's window byte, at MINICFG. -/
theorem test_blit_corners :
    exec (.blit (some 0x1000) (-1) 0 8 8) { st cfg with life := .uninit } =
      .next { st cfg with life := .uninit, responses := [⟨0, 0⟩] } ∧
    logOf (exec (.blit (some 0x1000) 0 0 0 1) (st cfg)) =
      C 0x44 ++ D 0x00 ++ D 0xFF ++ C 0x45 ++ D 0x00 ++ D 0x00 ++ D 0x00 ++ D 0x00 ++ C 0x4E ++ D 0x00 ++
      C 0x4F ++ D 0x00 ++ D 0x00 ++ W ++ C 0x24 := ⟨rfl, by decide⟩

/-- V-SL3. -/
theorem test_sleep : logOf (exec .sleep { st cfg with busyAnswers := [.high, .low] }) =
    C 0x10 ++ D 0x01 ++ H ++ W ++ [.ev (.setPin .rst .low)] := by decide

/-- V-SL2: from SLEEPING the same sequence, and MISUSE. -/
theorem test_sleep_misuse : exec .sleep { st cfg with life := .sleeping } =
    .next { st cfg with life := .sleeping, misuse := true, rstL := some .low, dcL := some .high
                        log := C 0x10 ++ D 0x01 ++ W ++ [.ev (.setPin .rst .low)]
                        responses := [⟨0, 0⟩], busyAnswers := [.low, .low] } := rfl

/-- E3: white. -/
theorem test_fbclear : (List.range 9).map (fun i => byteOf (0x1000 + i) (exec (.fbclear (some 0x1000) false) { st cfg with mem := [] })) =
    List.replicate 8 (some 0xFF) ++ [some 0x00] := by decide

/-- E3: colored; the listed bytes leave memory's list. -/
theorem test_fbclear_colored : exec (.fbclear none true) (st cfg) = .next { st cfg with responses := [⟨0, 0⟩] } ∧
    byteOf 0x1000 (exec (.fbclear (some 0x1000) true) (st cfg)) = some 0x00 := ⟨rfl, by decide⟩

/-- P2, step 6: native (11, 2), byte 5, mask 0x10. -/
theorem test_fbsetpix : byteOf 0x1005 (exec (.fbsetpix (some 0x1000) 2 5 true) { st cfg with rot := 1 }) = some 0xEF := by decide

/-- V-FB20 (native (13, 7)) and V-FB10's drop. -/
theorem test_fbsetpix_turned :
    logOf (exec (.fbsetpix (some 0x1000) 3 1 true) { st cfg8 with rot := 2, mem := [(0x100F, 0xFF)] }) =
      [.rd 0x100F 0xFF, .wr 0x100F 0xFB] ∧
    logOf (exec (.fbsetpix (some 0x1000) 0 0 true) { st cfg8 with rot := 1 }) = [] := by decide

/-- P1, step 4: byte 7, mask 0x01; V-FB5: white sets the bit. -/
theorem test_fbsetabs :
    logOf (exec (.fbsetabs (some 0x1000) 15 3 true) { st cfg with mem := [(0x1007, 0xFF)] }) =
      [.rd 0x1007 0xFF, .wr 0x1007 0xFE] ∧
    logOf (exec (.fbsetabs (some 0x1000) 0 0 false) { st cfg with mem := [] }) = [.rd 0x1000 0x00, .wr 0x1000 0x80] := by decide

/-- V-FB6: the write happens although the bit has the value; V-FB4 at MINICFG: x = W. -/
theorem test_fbsetabs_same :
    logOf (exec (.fbsetabs (some 0x1000) 0 0 true) (st cfg)) = [.rd 0x1000 0x7F, .wr 0x1000 0x7F] ∧
    logOf (exec (.fbsetabs (some 0x1000) 16 0 true) (st cfg)) = [] := by decide

/-- V-FB21: SETROT 1, then RDDIM gives (4, 16). -/
theorem test_setrot : exec (.setrot 1) (st cfg) = .next { st cfg with rot := 1, responses := [⟨0, 0⟩] } := rfl

theorem test_rddim : respOf (exec .rddim { st cfg with rot := 1 }) = [⟨4, 16⟩] ∧
    respOf (exec .rddim { st cfg with rot := 2 }) = [⟨16, 4⟩] := by decide

/-- V-PRIM1, V-PRIM3: each command frame of R77, under both polarities of the data/command pin. -/
theorem test_commands : ∀ p ∈ commandTable, logOf (exec p.1 (st cfg)) = C p.2 ∧
    logOf (exec p.1 (st { cfg with dcCmdLevel := .high })) = D p.2 := by decide

/-- V-PRIM2. -/
theorem test_data : logOf (exec (.data 0xF7) (st cfg)) = D 0xF7 := by decide

/-! The step. -/

/-- P4, step 3: an unassigned opcode sets REFUSED and leaves the port, no more. -/
theorem test_step_refuses : step { st cfg with port := [⟨0x15, 0, 0, 0, 0, 0⟩] } = .next { st cfg with refused := true } := rfl

/-- V-WR9: stuck at the fifth byte, with the events before it; the next step is the fault. -/
theorem test_step_sticks :
    logOf (exec (.wrfull (some 0x1000)) (st cfg4)) =
      C 0x24 ++ DM 0x1000 0x7F ++ DM 0x1001 0xFF ++ DM 0x1002 0xFF ++ DM 0x1003 0xFF ∧
    step { st cfg4 with seq := [.sendMem 0x1004] } = .fault (.unadmittedAccess 0x1004) := ⟨by decide, rfl⟩

/-- V-WAIT5: three busy samples and an idle one, one a step. -/
theorem test_step_unbounded : logOf (Sys2Proof.core.run 4
    { st cfgU with seq := [.wait 0], busyAnswers := [.high, .high, .high, .low] }) = H ++ H ++ H ++ W := by decide

/-- A table word placed at reset runs: SETROT 0, and a data frame. -/
theorem test_step_table : step (State.reset.withFetchWord 8 0x13) =
      exec (.setrot 0) { State.reset with latched := some (requestOfNat 0x13) } ∧
    step (State.reset.withFetchWord 16 0x1FF) = exec (.data 0xFF) State.reset := ⟨rfl, rfl⟩

/-! Witnesses: for every obligation with hypotheses, concrete values that meet them all, each clause at a boundary value. -/

/-- MINICFG with 16-bit addresses. -/
def cfg16 : Config := { cfg with addrBits := 16, memAdmit := [⟨0, 65536⟩] }

/-- A state whose next busy samples read busy. -/
def busy (c : Config) : State := { st c with busyAnswers := [.high, .high, .low] }

theorem witness_DecodeOfEncode : configOk cfg16 = true ∧ Instr.wf cfg16 (.blit (some 0xFFFF) 0x80000000 (-1) 0x7FFFFFFF 0) = true ∧
    Instr.wf cfg16 (.data 0xFF) = true := by decide

theorem witness_EncodeOfDecode :
    decode cfg16 (.request ⟨0x00000106, 0xFFFF, 0xFFFFFFFF, 0, 8, 8⟩) = .ok (.blit (some 0xFFFF) (-1) 0 8 8) ∧
    decode cfg16 (.frame 0x1FF) = .ok (.data 0xFF) := by decide

theorem witness_RequestChecksInOrder_opcode : configOk cfg16 = true ∧ ¬ OpcodeAssigned ⟨0x00002008, 0, 0, 0, 0, 0⟩ ∧
    OpcodeAssigned ⟨0x00002001, 0, 0, 0, 0, 0⟩ ∧ 2 ^ 13 ≤ (0x00002001 : Word).toNat := by
  unfold OpcodeAssigned; decide

theorem witness_RequestChecksInOrder_unused : OpcodeAssigned ⟨0x00001801, 0, 0, 0, 0, 0⟩ ∧
    (0x00001801 : Word).toNat < 2 ^ 13 ∧ UnusedFieldSet ⟨0x00001801, 0, 0, 0, 0, 0⟩ := by
  unfold OpcodeAssigned UnusedFieldSet; decide

theorem witness_RequestChecksInOrder_null : ¬ UnusedFieldSet ⟨0x00000002, 1, 0, 0, 0, 0⟩ ∧
    OpcodeTakesBuffer ⟨0x00000002, 1, 0, 0, 0, 0⟩ := by
  unfold UnusedFieldSet OpcodeTakesBuffer; decide

theorem witness_RequestChecksInOrder_wide : ¬ UnusedFieldSet ⟨0x00000102, 0x10000, 0, 0, 0, 0⟩ ∧
    OpcodeTakesBuffer ⟨0x00000102, 0x10000, 0, 0, 0, 0⟩ ∧ 2 ^ cfg16.addrBits ≤ (0x10000 : Word).toNat := by
  unfold UnusedFieldSet OpcodeTakesBuffer; decide

theorem witness_RequestChecksInOrder_passes : OpcodeAssigned ⟨0x00000311, 0xFFFF, 1, 1, 0, 0⟩ ∧
    ¬ UnusedFieldSet ⟨0x00000311, 0xFFFF, 1, 1, 0, 0⟩ ∧ ¬ 2 ^ cfg16.addrBits ≤ (0xFFFF : Word).toNat := by
  unfold OpcodeAssigned UnusedFieldSet; decide

theorem witness_BrokenConfigurationRefusesAll : configOk { cfg with width := 0 } = false ∧
    configOk { cfg with memAdmit := [⟨4294967295, 2⟩] } = false ∧
    configOk { cfg with memAdmit := [⟨4294967295, 1⟩, ⟨8589934592, 0⟩] } = true := by decide

theorem witness_StepRunsTheDecodedRequest :
    (st cfg).seq = [] ∧ decodeRequest cfg ⟨0x00000102, 0xFFFFFFF8, 0, 0, 0, 0⟩ = .ok (.wrfull (some 0xFFFFFFF8)) := by decide

theorem witness_StepRunsTheDecodedFrame : decodeFrame (.cmd 0x4F) = .ok .cmdRamYCounter ∧
    decodeFrame (.cmd 0x18) = .error .unlistedCommand := by decide

theorem witness_RefusedRequestOnlyMarks : (st cfg).seq = [] ∧
    decodeRequest (st cfg).cfg ⟨0xFF, 0, 0, 0, 0, 0⟩ = .error .unassignedOpcode := by decide

theorem witness_EmptyPortWaits : State.reset.seq = [] ∧ State.reset.port = [] := ⟨rfl, rfl⟩

theorem witness_StuckAt : StuckAt { st cfg4 with seq := [.store 0x1004 0xFF] } 0x1004 := ⟨_, _, rfl, rfl, by decide⟩

/-- Not stuck: reset, and a state before an access that is admitted. -/
theorem witness_OnlyStuckStatesStop : (∀ a, ¬ StuckAt State.reset a) ∧
    (∀ a, ¬ StuckAt { st cfg4 with seq := [.store 0x1003 0xFF] } a) :=
  ⟨fun _ ⟨_, _, h, _⟩ => (List.cons_ne_nil _ _ h.symm).elim,
   fun _ ⟨_, _, h, ha, hn⟩ => by
     rw [← (List.cons.inj h).1] at ha; rw [← Option.some.inj ha] at hn; exact absurd hn (by decide)⟩

theorem witness_PlacedTableWordRunsNext : State.reset.cfg = Config.ref ∧ decodeTableWord 8 0x14 = some .rddim ∧
    decodeTableWord 16 0x001 = some .cmdDriverOutputControl := ⟨rfl, by decide, by decide⟩

theorem witness_WaitIdlePolls : (busy cfg).cfg.busyMaxPolls ≠ none ∧
    ((st cfgU).cfg.busyMaxPolls = none ∧ answerAt (st cfgU) 0 ≠ (st cfgU).cfg.busyActiveLevel) ∧
    answerAt (busy cfgU) 0 = (busy cfgU).cfg.busyActiveLevel := by decide

theorem witness_UnboundedWaitHangsUntilIdle : (busy cfgU).cfg.busyMaxPolls = none ∧
    (∀ j, j < 2 → answerAt (busy cfgU) j = (busy cfgU).cfg.busyActiveLevel) ∧
    answerAt (busy cfgU) 2 ≠ (busy cfgU).cfg.busyActiveLevel := by decide

theorem witness_CommandFrameIsSent : (Instr.cmdRamYCounter, (0x4F : Byte)) ∈ commandTable := by decide

theorem witness_InitWindowFollowsTheTable : configOk cfg = true ∧ cfg.yWindowReading = .highEndFirst ∧
    configOk { cfg with yWindowReading := .msbFirst } = true := by decide

theorem witness_InitFailsOnBringUp : upAnswer { st cfg with upAnswers := [.failure] } = .failure := by decide

/-- Two waits that pass: bounded with a busy panel, and unbounded with an idle one. -/
theorem witness_InitRunsItsSequence :
    (configOk (busy cfg).cfg = true ∧ upAnswer (busy cfg) = .success ∧ WaitsPass (afterBringUp (busy cfg)) 2) ∧
    (configOk (st cfgU).cfg = true ∧ upAnswer (st cfgU) = .success ∧ WaitsPass (afterBringUp (st cfgU)) 2) := by
  unfold WaitsPass; decide

/-- A buffer at the top of the address space, NULL, and waits that pass either way (WRFULL, WRBASE, WRWHITE, WRPART). -/
theorem witness_writes : BufferAdmitted (st cfg).cfg (some 0xFFFFFFF8) ∧ BufferAdmitted (st cfg).cfg none ∧
    WaitsPass (busy cfg) 1 ∧ WaitsPass (st cfgU) 1 := by
  refine ⟨fun a h => ?_, fun a h => by simp at h, ?_, ?_⟩
  · rw [← Option.some.inj h]; unfold RangeAdmitted; decide
  · unfold WaitsPass; decide
  · unfold WaitsPass; decide

/-- The first byte not admitted is the fifth, or the first. -/
theorem witness_UnadmittedByteSticksTheWrite : (st cfg4).mem.wf = true ∧
    (4 < cfg4.width / 8 * cfg4.height ∧ RangeAdmitted cfg4 0x1000 4 ∧ admits cfg4 (0x1000 + 4) = false) ∧
    (RangeAdmitted cfg4 0x1004 0 ∧ admits cfg4 (0x1004 + 0) = false) := by
  unfold RangeAdmitted; decide

/-- The whole panel from 0x1000, whose first byte of row 2 is not admitted; from 0x1003, whose second of row 0 is not; both
with a wait that passes on a busy panel. -/
theorem witness_UnadmittedByteSticksTheBlit : (blitGeom cfg4 0 0 16 4).rows = 4 ∧
    (blitGeom cfg4 0 0 16 4).stride = 2 ∧ (blitGeom cfg4 0 0 16 4).cols = 2 ∧ WaitsPass (busy cfg4) 1 ∧
    ((∀ r, r < 2 → RangeAdmitted cfg4 (0x1000 + r * 2) 2) ∧ RangeAdmitted cfg4 (0x1000 + 2 * 2) 0 ∧
      admits cfg4 (0x1000 + 2 * 2 + 0) = false) ∧
    ((∀ r, r < 0 → RangeAdmitted cfg4 (0x1003 + r * 2) 2) ∧ RangeAdmitted cfg4 (0x1003 + 0 * 2) 1 ∧
      admits cfg4 (0x1003 + 0 * 2 + 1) = false) := by
  unfold RangeAdmitted WaitsPass; decide

/-- V-WR9's memory: FBCLEAR writes the four bytes before the one it sticks at; BLIT sends them. -/
theorem test_fbclear_sticks :
    logOf (exec (.fbclear (some 0x1000) true) (st cfg4)) = [.wr 0x1000 0, .wr 0x1001 0, .wr 0x1002 0, .wr 0x1003 0] ∧
    byteOf 0x1003 (exec (.fbclear (some 0x1000) true) (st cfg4)) = some 0x00 ∧
    byteOf 0x1004 (exec (.fbclear (some 0x1000) true) (st cfg4)) = some 0xFF ∧
    respOf (exec (.fbclear (some 0x1000) true) (st cfg4)) = [] := by decide

theorem test_blit_sticks :
    logOf (exec (.blit (some 0x1003) 0 0 16 1) (st cfg4)) =
      C 0x44 ++ D 0x00 ++ D 0x01 ++ C 0x45 ++ D 0x00 ++ D 0x00 ++ D 0x00 ++ D 0x00 ++
        C 0x4E ++ D 0x00 ++ C 0x4F ++ D 0x00 ++ D 0x00 ++ W ++ C 0x24 ++ DM 0x1003 0xFF ∧
    respOf (exec (.blit (some 0x1003) 0 0 16 1) (st cfg4)) = [] := by decide

theorem witness_WritesWaitWhileBusy : (busy cfgU).cfg.busyMaxPolls = none ∧
    answerAt (busy cfgU) 0 = (busy cfgU).cfg.busyActiveLevel ∧ BufferAdmitted (busy cfgU).cfg none ∧
    (blitGeom cfgU 8 3 16 4).rows = 1 ∧ (blitGeom cfgU 8 3 16 4).cols = 1 :=
  ⟨by decide, by decide, fun a h => by simp at h, by decide, by decide⟩

/-- A panel busy at the first wait of an INIT, and one busy at its second only. -/
theorem witness_InitWaitsWhileBusy : configOk cfgU = true ∧ upAnswer (busy cfgU) = .success ∧ cfgU.busyMaxPolls = none ∧
    answerAt (afterBringUp (busy cfgU)) 0 = cfgU.busyActiveLevel ∧
    answerAt (afterBringUp { st cfgU with busyAnswers := [.low, .high] }) 0 ≠ cfgU.busyActiveLevel ∧
    answerAt (afterBringUp { st cfgU with busyAnswers := [.low, .high] }) 1 = cfgU.busyActiveLevel := by decide

theorem witness_InvalidArgumentsAreIgnored : (0xFFFFFFFF : Word).toInt < 0 ∧ ¬ (16 : Word).toInt < (st cfg).cfg.width ∧
    ¬ (4 : Word).toInt < logW { st cfg with rot := 1 } ∧ (mapPoint cfg 1 0 0).1 = 16 := by decide

/-- P3 step 4 (clamped both ways) and an empty rectangle at `x = W`. -/
theorem witness_BlitSendsTheRectangle :
    (0 ≤ (8 : Word).toInt ∧ (1 : Int).toNat = ((min (3 + 4 - 1) ((cfg.height : Int) - 1)) - 3 + 1).toNat ∧
      RangeAdmitted cfg (0xFFFFFFFF + 0 * 2) 1 ∧ WaitsPass (busy cfg) 1) ∧
    ((((min (16 + 8 - 1) ((cfg.width : Int) - 1)) - 16 + 1) / 8).toNat = 0 ∧ RangeAdmitted cfg 0xFFFFFFFF 0) := by
  unfold RangeAdmitted WaitsPass; decide

theorem witness_BlitGeometryClamps : configOk cfg = true ∧ (blitGeom cfg 259 0 8 1).x0 = 256 ∧
    0 < (blitGeom cfg 8 3 16 4).xe - (blitGeom cfg 8 3 16 4).x0 + 1 := by decide

theorem witness_SleepWaitsWhileBusy : (busy cfgU).cfg.busyMaxPolls = none ∧
    answerAt (busy cfgU) 0 = (busy cfgU).cfg.busyActiveLevel := by decide

theorem witness_FbclearFillsTheBuffer : (st cfg).mem.wf = true ∧ BufferAdmitted (st cfg).cfg (some 0xFFFFFFF8) :=
  ⟨by decide, witness_writes.1⟩

/-- The last pixel, and the first outside; the same for a point turned by 90° and for one that MAP drops. -/
theorem witness_pixels : configOk cfg = true ∧ (st cfg).mem.wf = true ∧
    ((15 : Word).toInt < cfg.width ∧ (3 : Word).toInt < cfg.height ∧
      admits cfg (pixelAddr cfg 0xFFFFFFF8 (15 : Word).toInt (3 : Word).toInt) = true) ∧
    (¬ (16 : Word).toInt < cfg.width) ∧
    (inLogical { st cfg with rot := 1 } 3 15 = true ∧ mapPoint cfg 1 3 15 = (1, 3)) ∧
    (inLogical { st cfg with rot := 1 } 0 0 = true ∧ mapPoint cfg 1 0 0 = (16, 0)) ∧
    inLogical { st cfg with rot := 1 } 4 0 = false := by decide

/-- FBSETABS at the first pixel of the last row; FBSETPIX, turned by 90°, at a point MAP takes to the last column of it. -/
theorem witness_UnadmittedPixelSticks : configOk cfg4 = true ∧
    ((3 : Word).toInt < cfg4.height ∧
      admits cfg4 (pixelAddr cfg4 0x1000 (0 : Word).toInt (3 : Word).toInt) = false) ∧
    (inLogical { st cfg4 with rot := 1 } 3 1 = true ∧ mapPoint cfg4 1 3 1 = (15, 3) ∧
      admits cfg4 (pixelAddr cfg4 0x1000 15 3) = false) := by decide

theorem witness_QuarterTurnTwiceIsHalfTurn : Config.ref.width = Config.ref.height ∧ cfg8.width = 16 ∧ cfg8.height = 8 := by decide

theorem witness_PixelLiesInItsRow : configOk cfg = true ∧ 15 < cfg.width ∧ 3 < cfg.height := by decide

theorem witness_UprightPixelIsAbsolute : (st cfg).rot = 0 := rfl

theorem witness_RddimReportsDimensions : configOk (st cfg).cfg = true := by decide

/-- An instruction that answers a next state, of each kind the statements over all instructions tell apart. -/
theorem witness_exec : (∃ t, exec .sleep { st cfg with life := .uninit } = .next t ∧ t.misuse = true) ∧
    (∃ t, exec (.init .lowDir) (st cfg) = .next t ∧ t.life = .initialized) ∧
    (∃ t, exec (.fbclear (some 0x1000) true) (st cfg) = .next t ∧ framebufferRequest (.fbclear (some 0x1000) true) = true) ∧
    (st cfg).cfg.busyMaxPolls = some 2 := ⟨⟨_, rfl, rfl⟩, ⟨_, rfl, rfl⟩, ⟨_, rfl, rfl⟩, rfl⟩

theorem witness_LifecycleGatesNothing : SameButLifecycle (st cfg) { st cfg with life := .sleeping, misuse := true } ∧
    (∃ t, step { st cfgU with seq := [.wait 1, .respond ⟨0, 0⟩] } = .next t) := ⟨rfl, _, rfl⟩

/-- A SLEEP in progress in an unbounded wait: by a busy sample it stays there; by an idle one it ends, and LIFE changes. -/
def sleepWaiting (l : Level) : State :=
  { st cfgU with latched := some ⟨7, 0, 0, 0, 0, 0⟩, seq := [.wait 1, .rst .low, .life .sleeping, .respond ⟨0, 0⟩]
                 busyAnswers := [l] }

theorem witness_InProgress (l : Level) : InProgress ⟨7, 0, 0, 0, 0, 0⟩ .sleep (sleepWaiting l) :=
  ⟨rfl, show decodeRequest cfgU _ = _ by decide, ⟨[.wait 1, .rst .low], rfl, rfl⟩, .inr ⟨rfl, _, _, rfl⟩⟩

/-- The other kind of request in progress, stuck; and a machine between requests. -/
theorem witness_BetweenSteps : BetweenSteps (st cfg) ∧ BetweenSteps
    { st cfg4 with latched := some ⟨0x110, 0x1000, 0, 0, 0, 0⟩, seq := [.store 0x1004 0xFF, .respond ⟨0, 0⟩] } :=
  ⟨.inl ⟨rfl, rfl⟩, .inr ⟨_, .fbclear (some 0x1000) false, rfl, show decodeRequest cfg4 _ = _ by decide,
    ⟨[.store 0x1004 0xFF], rfl, rfl⟩,
    .inl ⟨0x1004, _, _, rfl, rfl, by decide⟩⟩⟩

theorem witness_LifeChangesOnlyByInitAndSleep :
    (∃ t, step (sleepWaiting .low) = .next t ∧ t.life ≠ (sleepWaiting .low).life ∧ t.seq = []) ∧
    (∃ t, step (sleepWaiting .high) = .next t ∧ t.life = .initialized ∧ t.seq ≠ []) :=
  ⟨⟨_, rfl, by decide, rfl⟩, ⟨_, rfl, rfl, by decide⟩⟩

theorem witness_ProtocolRequestsLeaveRotAndMemory : framebufferRequest (.wrbase none) = false := rfl

/-- A request of each outcome of R220: refused, answered, stuck, waiting. -/
theorem witness_EveryRequestHasOneOutcome :
    (∃ e, decodeRequest cfg ⟨0x15, 0, 0, 0, 0, 0⟩ = .error e) ∧
    respOf (step { st cfg with port := [⟨0x00000014, 0, 0, 0, 0, 0⟩] }) = [⟨16, 4⟩] ∧
    (∃ t, step { st cfg4 with port := [⟨0x00000102, 0x1000, 0, 0, 0, 0⟩] } = .next t ∧ StuckAt t 0x1004) ∧
    (∃ t, step { busy cfgU with port := [⟨0x00000002, 0, 0, 0, 0, 0⟩] } = .next t ∧ Waiting t) :=
  ⟨⟨.unassignedOpcode, by decide⟩, by decide, ⟨_, rfl, _, _, rfl, rfl, by decide⟩, ⟨_, rfl, rfl, _, _, rfl⟩⟩

/-- Steps the invariants speak of: from reset, and from inside a request. -/
theorem witness_steps : (∃ t, step State.reset = .next t) ∧ Inv State.reset ∧ seqAllowed State.reset = true ∧
    (∃ t, step { st cfgU with seq := [.wait 1, .rst .low, .life .sleeping, .respond ⟨0, 0⟩] } = .next t) ∧
    Inv { State.resetWith cfgU with seq := [.wait 1, .rst .low, .life .sleeping, .respond ⟨0, 0⟩] } ∧
    seqAllowed { st cfgU with seq := [.frame (.cmd 0x18), .wait 1] } = true :=
  ⟨⟨_, rfl⟩, ⟨rfl, rfl, rfl, rfl⟩, rfl, ⟨_, rfl⟩, ⟨rfl, rfl, rfl, rfl⟩, by decide⟩

end Sys2Proof.Tests
end

section
/-! PROOFS of the family 00_scope.md: the configuration (R7, R25, R224) and the byte functions (R8). -/

namespace Sys2Proof.Scope

open Sys2Proof Machine

/-! No step writes the configuration. -/

/-- A request's sequence and its start keep the configuration, and so does emitting a frame. -/
theorem exec_cfg (i : Instr) (s t : State) (h : exec i s = .next t) : t.cfg = s.cfg := by
  cases hr : i.isRequest with
  | true =>
    obtain ⟨ops, r, u, he, -, hu⟩ := exec_request i s hr
    obtain rfl := Host.Outcome.next.inj (he.symm.trans h)
    obtain ⟨hcfg, -⟩ := hu.fixed
    rw [runOps_cfg, hcfg]
  | false =>
    obtain ⟨f, he, -⟩ := exec_wireFrame i s hr
    obtain rfl := Host.Outcome.next.inj (he.symm.trans h)
    exact sendFrame_cfg s f

/-- Settles O56, by the cases of what a step can do. -/
theorem stepKeepsConfiguration : Obligations.StepKeepsConfiguration := by
  intro s t h
  rcases step_cases s t h with ⟨-, -, rfl⟩ | ⟨r, rest, e, -, -, -, rfl⟩ | ⟨r, rest, i, -, -, -, he⟩ |
    ⟨f, rest, -, rfl⟩ | ⟨op, rest, -, -, rfl⟩
  case inl => rfl
  case inr.inl => rw [refuse_cfg, State.setPort_cfg]
  case inr.inr.inl => rw [exec_cfg i _ t he, State.setLatched_cfg, State.setPort_cfg]
  case inr.inr.inr.inl => rw [sendFrame_cfg, State.setSeq_cfg]
  case inr.inr.inr.inr => exact runOps_cfg _ s

/-! The configuration check. -/

/-- A region's addresses all lie below `n` exactly when it is empty or its end does (log 12). -/
theorem region_below_iff (r : Region) (n : Nat) :
    (r.size = 0 ∨ r.base + r.size ≤ n) ↔ ∀ a, r.base ≤ a → a < r.base + r.size → a < n := by
  constructor
  · omega
  · intro h
    by_cases h0 : r.size = 0
    · exact .inl h0
    · have hlast := h (r.base + r.size - 1) (by omega) (by omega)
      exact .inr (by omega)

/-- The check of `MEM_ADMIT` in `configOk`, as a statement about addresses. -/
theorem memAdmit_below_iff (c : Config) :
    c.memAdmit.all (fun r => decide (r.size = 0) || decide (r.base + r.size ≤ 2 ^ c.addrBits)) = true ↔
      ∀ r ∈ c.memAdmit, ∀ a, r.base ≤ a → a < r.base + r.size → a < 2 ^ c.addrBits := by
  simp only [List.all_eq_true, Bool.or_eq_true, decide_eq_true_eq, region_below_iff]

/-- A broken configuration is named before the words of the request are looked at (R224, log 13). -/
theorem decodeRequest_of_broken (c : Config) (r : Request) (h : configOk c = false) :
    decodeRequest c r = .error .badConfiguration := by
  unfold decodeRequest
  rw [if_pos h]

/-- Settles O5: the check is a conjunction of decisions, one per row of R7's table. -/
theorem brokenConfigurationRefusesAll : Obligations.BrokenConfigurationRefusesAll := by
  intro c
  refine ⟨?_, fun h r => decodeRequest_of_broken c r h⟩
  rw [← memAdmit_below_iff]
  simp only [configOk, Bool.and_eq_true, decide_eq_true_eq, and_assoc]

/-! The byte functions. -/

/-- The byte of an integer is the integer modulo 256, negative ones included. -/
theorem toNat_byte_ofInt (v : Int) : ((BitVec.ofInt 8 v).toNat : Int) = v % 256 := by
  rw [BitVec.toNat_ofInt]
  omega

/-- Settles O6: each byte function is the byte of an integer quotient. -/
theorem byteFunctionsTruncate : Obligations.ByteFunctionsTruncate := by
  refine ⟨fun v => ⟨?xb, ?lo8, ?hi8⟩, by decide, by decide, by decide, by decide⟩
  case xb => exact toNat_byte_ofInt (v / 8)
  case lo8 => exact toNat_byte_ofInt v
  case hi8 => exact toNat_byte_ofInt (v / 256)

end Sys2Proof.Scope
end

section
/-! PROOFS of the family 10_state.md: what an instruction and a step do to the state's elements (R20 to R34). -/

namespace Sys2Proof.StateFamily

open Sys2Proof Machine Safety

/-! Requests as runs: the state a request starts from, and its operations, which `LIFE` and `MISUSE` have no part in. -/

/-- The state a request's operations start from: a bring-up drawn, ROT set, or MISUSE marked (R27, R138, R165). -/
def startState (i : Instr) (s : State) : State :=
  match i with
  | .init _ => bringUp s
  | .setrot rot => s.setRot rot
  | _ => if panelWriting i then markMisuse s else s

/-- Two states that differ at most in the lifecycle marks, as one state and its marks replaced. -/
theorem sameButLifecycle_iff (s t : State) :
    SameButLifecycle s t ↔ ∃ l m, t = { s with life := l, misuse := m } := by
  constructor
  · exact fun h => ⟨t.life, t.misuse, h⟩
  · rintro ⟨l, m, rfl⟩
    rfl

theorem sameButLifecycle_refl (s : State) : SameButLifecycle s s := rfl

/-- The argument check of BLIT reads the sign bits of its operands (R73, R105). -/
theorem blitArgsOk_eq_msb (x y wd ht : Word) :
    blitArgsOk (coord x) (coord y) (coord wd) (coord ht) = (!x.msb && !y.msb && !wd.msb && !ht.msb) := by
  have nonneg : ∀ w : Word, decide (0 ≤ coord w) = !w.msb := fun w => by
    rw [BitVec.msb_eq_toInt, coord, ← decide_not]
    exact decide_eq_decide.2 not_lt.symm
  simp only [blitArgsOk, nonneg]

/-- A request runs one sequence from its start, and the sequence is the same whatever `LIFE` and `MISUSE` are. -/
theorem exec_runs_same (i : Instr) (s s' : State) (hs : SameButLifecycle s s') (hi : i.isRequest = true) :
    ∃ ops, exec i s = .next (runOps ops (startState i s)) ∧ exec i s' = .next (runOps ops (startState i s')) := by
  obtain ⟨l, m, rfl⟩ := (sameButLifecycle_iff s s').1 hs
  cases i with
  | init mode => exact ⟨_, rfl, rfl⟩
  | wrfull buf => exact ⟨_, rfl, rfl⟩
  | wrbase buf => exact ⟨_, rfl, rfl⟩
  | wrwhite => exact ⟨_, rfl, rfl⟩
  | wrpart buf => exact ⟨_, rfl, rfl⟩
  | blit buf x y wd ht =>
    cases buf with
    | none => exact ⟨_, rfl, rfl⟩
    | some a =>
      have hargs := blitArgsOk_eq_msb x y wd ht
      by_cases hok : blitArgsOk (coord x) (coord y) (coord wd) (coord ht) = true
      · rw [hok] at hargs
        refine ⟨blitOps (bufAddr a) (coord y) (blitGeom s.cfg (coord x) (coord y) (coord wd) (coord ht)), ?_, ?_⟩ <;>
          simp [exec, execBlit, blitAt, startState, panelWriting, hok, ← hargs]
      · rw [Bool.not_eq_true] at hok
        rw [hok] at hargs
        refine ⟨[.respond respDone], ?_, ?_⟩ <;>
          simp [exec, execBlit, blitAt, startState, panelWriting, hok, ← hargs, noop]
  | sleep => exact ⟨_, rfl, rfl⟩
  | fbclear buf col => cases buf <;> exact ⟨_, rfl, rfl⟩
  | fbsetpix buf x y col =>
    cases buf with
    | none => exact ⟨_, rfl, rfl⟩
    | some a =>
      by_cases hin : inLogical s (coord x) (coord y) = true
      · refine ⟨plotOps s.cfg (bufAddr a) (mapPoint s.cfg s.rot (coord x) (coord y)).1
          (mapPoint s.cfg s.rot (coord x) (coord y)).2 col ++ [.respond respDone], ?_, ?_⟩ <;>
          exact congrArg _ (if_pos hin)
      · refine ⟨[.respond respDone], ?_, ?_⟩ <;> exact congrArg _ (if_neg hin)
  | fbsetabs buf x y col => cases buf <;> exact ⟨_, rfl, rfl⟩
  | setrot rot => exact ⟨_, rfl, rfl⟩
  | rddim => exact ⟨_, rfl, rfl⟩
  | _ => exact absurd hi (by simp [Instr.isRequest])

/-- What an instruction that answers did: it ran a request's operations from its start, or emitted a frame. -/
theorem exec_cases (i : Instr) (s t : State) (h : exec i s = .next t) :
    (i.isRequest = true ∧ ∃ ops, t = runOps ops (startState i s)) ∨
    (i.isRequest = false ∧ ∃ f, t = sendFrame f s) := by
  cases hi : i.isRequest with
  | true =>
    obtain ⟨ops, he, -⟩ := exec_runs_same i s s (sameButLifecycle_refl s) hi
    exact .inl ⟨rfl, ops, Host.Outcome.next.inj (h.symm.trans he)⟩
  | false =>
    obtain ⟨f, he, -⟩ := exec_wireFrame i s hi
    exact .inr ⟨rfl, f, Host.Outcome.next.inj (h.symm.trans he)⟩

/-- A request starts with MISUSE marked exactly when it is a panel-writing one (R27). -/
theorem startState_misuse (i : Instr) (s : State) :
    (startState i s).misuse = (s.misuse || (panelWriting i && decide (s.life ≠ .initialized))) := by
  have marked : (if panelWriting i then markMisuse s else s).misuse =
      (s.misuse || (panelWriting i && decide (s.life ≠ .initialized))) := by
    cases hp : panelWriting i <;> simp
  cases i with
  | init mode => simp [startState, panelWriting]
  | setrot rot => simp [startState, panelWriting]
  | _ => exact marked

/-- A wire frame is no panel-writing request. -/
theorem panelWriting_of_frame (i : Instr) (hi : i.isRequest = false) : panelWriting i = false := by
  cases i with
  | wrfull | wrbase | wrwhite | wrpart | blit | sleep => exact absurd hi (by simp [Instr.isRequest])
  | _ => rfl

/-- Settles O46: the start of a request marks MISUSE, and nothing after it does. -/
theorem misuseMarksPanelWrites : Obligations.MisuseMarksPanelWrites := by
  intro i s t h
  rcases exec_cases i s t h with ⟨-, ops, rfl⟩ | ⟨hi, f, rfl⟩
  · rw [runOps_misuse, startState_misuse]
  · simp [panelWriting_of_frame i hi]

theorem startState_fixed (i : Instr) (s : State) :
    (startState i s).cfg = s.cfg ∧ (startState i s).refused = s.refused ∧ (startState i s).port = s.port := by
  unfold startState
  split
  · exact ⟨rfl, rfl, rfl⟩
  · exact ⟨rfl, rfl, rfl⟩
  · split <;> exact ⟨rfl, rfl, rfl⟩

/-- Settles O51: neither the start of a request nor its operations touch them. -/
theorem execKeepsConfigurationAndPort : Obligations.ExecKeepsConfigurationAndPort := by
  intro i s t h
  rcases exec_cases i s t h with ⟨-, ops, rfl⟩ | ⟨-, f, rfl⟩
  · rw [runOps_cfg, runOps_refused, runOps_port]
    exact startState_fixed i s
  · exact ⟨rfl, rfl, rfl⟩

/-! The reset state, and a request refused. -/

/-- Settles O11: at rotation 0 the logical dimensions are the native ones, and the rest is the reset state itself. -/
theorem resetLeavesTheSpecValues : Obligations.ResetLeavesTheSpecValues := by
  intro c
  exact ⟨rfl, rfl, rfl, rfl, rfl, rfl, rfl, rfl, rfl, rfl, rfl, rfl, rfl⟩

/-- Settles O9: an idle step looks at the port, takes the request off it and refuses it. -/
theorem refusedRequestOnlyMarks : Obligations.RefusedRequestOnlyMarks := by
  intro s r rest e hseq hport hdec
  calc step s = fetchRequest s := step_idle s hseq
    _ = acceptRequest r (s.setPort rest) := fetchRequest_cons s r rest hport
    _ = .next (refuse (s.setPort rest)) := acceptRequest_error r (s.setPort rest) e hdec

/-- Settles O55, by the cases of what a step can do: only a refusal writes REFUSED, only the start of a request MISUSE. -/
theorem stickyMarksNeverClear : Obligations.StickyMarksNeverClear := by
  intro s t h
  rcases step_cases s t h with ⟨-, hport, rfl⟩ | ⟨r, rest, e, hseq, hport, hdec, rfl⟩ |
    ⟨r, rest, i, -, hport, hdec, he⟩ | ⟨f, rest, hseq, rfl⟩ | ⟨op, rest, hseq, -, rfl⟩
  case inl => exact ⟨id, by simp [hport]⟩
  case inr.inl => exact ⟨id, iff_of_true rfl (.inr ⟨r, rest, e, hseq, hport, hdec⟩)⟩
  case inr.inr.inl =>
    obtain ⟨-, hrefused, -⟩ := execKeepsConfigurationAndPort i _ t he
    have hmisuse := misuseMarksPanelWrites i _ t he
    refine ⟨fun hm => by rw [hmisuse]; simp [hm], ?_⟩
    rw [hrefused]
    simp [hport, hdec]
  case inr.inr.inr.inl => exact ⟨id, by simp [hseq]⟩
  case inr.inr.inr.inr => exact ⟨fun hm => by rw [runOps_misuse, hm], by simp [hseq]⟩

/-! Two machines that differ at most in `LIFE` and `MISUSE`, side by side. -/

/-- A bounded wait takes the same samples on both. -/
theorem pollUpTo_same (n : Nat) (s s' : State) (hs : SameButLifecycle s s') :
    SameButLifecycle (pollUpTo n s) (pollUpTo n s') := by
  induction n generalizing s s' with
  | zero => exact hs
  | succ n ih =>
    obtain ⟨l, m, rfl⟩ := (sameButLifecycle_iff s s').1 hs
    by_cases hb : nextIsBusy s = true
    · have hb' : nextIsBusy { s with life := l, misuse := m } = true := hb
      rw [pollUpTo, pollUpTo, if_pos hb, if_pos hb']
      exact ih _ _ rfl
    · have hb' : ¬ nextIsBusy { s with life := l, misuse := m } = true := hb
      rw [pollUpTo, pollUpTo, if_neg hb, if_neg hb']
      rfl

/-- Two outcomes of starting one operation: performed on both, or held up on both with the same operation left. -/
def FiredSame : Fired → Fired → Prop
  | .done t, .done t' => SameButLifecycle t t'
  | .hold op t, .hold op' t' => op = op' ∧ SameButLifecycle t t'
  | _, _ => False

theorem fireAccess_same (op : SeqOp) (a : Nat) (s s' t t' : State) (hs : SameButLifecycle s s')
    (ht : SameButLifecycle t t') : FiredSame (fireAccess op a s t) (fireAccess op a s' t') := by
  have hcfg : s'.cfg = s.cfg := by rw [hs]
  cases ha : admits s.cfg a with
  | true => rw [fireAccess_admitted _ _ _ _ ha, fireAccess_admitted _ _ _ _ (hcfg ▸ ha)]; exact ht
  | false => rw [fireAccess_blocked _ _ _ _ ha, fireAccess_blocked _ _ _ _ (hcfg ▸ ha)]; exact ⟨rfl, hs⟩

theorem fireWait_same (j : Nat) (s s' : State) (hs : SameButLifecycle s s') :
    FiredSame (fireWait j s) (fireWait j s') := by
  have hcfg : s'.cfg = s.cfg := by rw [hs]
  have hbusy : nextIsBusy s' = nextIsBusy s := by rw [hs]; rfl
  cases hn : s.cfg.busyMaxPolls with
  | some n =>
    simp only [fireWait, hcfg, hn]
    exact pollUpTo_same (n - j) s s' hs
  | none =>
    cases hb : nextIsBusy s with
    | true =>
      simp only [fireWait, hcfg, hn, hbusy, hb, if_true]
      exact ⟨rfl, by rw [hs]; rfl⟩
    | false =>
      simp only [fireWait, hcfg, hn, hbusy, hb, Bool.false_eq_true, if_false]
      show SameButLifecycle _ _
      rw [hs]; rfl

/-- No operation reads `LIFE` or `MISUSE`. -/
theorem fire_same (op : SeqOp) (s s' : State) (hs : SameButLifecycle s s') :
    FiredSame (fire op s) (fire op s') := by
  cases op with
  | wait j => exact fireWait_same j s s' hs
  | sendMem a => exact fireAccess_same _ a s s' _ _ hs (by rw [hs]; rfl)
  | store a v => exact fireAccess_same _ a s s' _ _ hs (by rw [hs]; rfl)
  | plot a m col => exact fireAccess_same _ a s s' _ _ hs (by rw [hs]; rfl)
  | frame f => rw [hs]; exact rfl
  | rst l => rw [hs]; exact rfl
  | delay ms => rw [hs]; exact rfl
  | life l => rw [hs]; exact rfl
  | respond r => rw [hs]; exact rfl

/-- A sequence runs alike on both. -/
theorem runOps_same (ops : List SeqOp) (s s' : State) (hs : SameButLifecycle s s') :
    SameButLifecycle (runOps ops s) (runOps ops s') := by
  refine runOps_simulation SameButLifecycle ?_ (fun l a b h => by rw [h]; rfl) (fun a b h => by rw [h]; rfl)
    ops s s' hs
  intro op a b hab
  have hf := fire_same op a b hab
  cases ha : fire op a <;> cases hb : fire op b <;> rw [ha, hb] at hf
  case done.done t t' => exact .inl ⟨t, t', rfl, rfl, hf⟩
  case hold.hold op' t op'' t' =>
    obtain ⟨rfl, ht⟩ := hf
    exact .inr ⟨op', t, t', rfl, rfl, ht⟩
  case done.hold => exact hf.elim
  case hold.done => exact hf.elim

theorem startState_same (i : Instr) (s s' : State) (hs : SameButLifecycle s s') :
    SameButLifecycle (startState i s) (startState i s') := by
  obtain ⟨l, m, rfl⟩ := (sameButLifecycle_iff s s').1 hs
  unfold startState
  split
  · rfl
  · rfl
  · split <;> rfl

/-- Every instruction answers on both, with states alike. -/
theorem exec_same (i : Instr) (s s' : State) (hs : SameButLifecycle s s') :
    ∃ t t', exec i s = .next t ∧ exec i s' = .next t' ∧ SameButLifecycle t t' := by
  cases hi : i.isRequest with
  | true =>
    obtain ⟨ops, he, he'⟩ := exec_runs_same i s s' hs hi
    exact ⟨_, _, he, he', runOps_same ops _ _ (startState_same i s s' hs)⟩
  | false =>
    obtain ⟨f, he, hf⟩ := exec_wireFrame i s hi
    exact ⟨_, _, he, exec_of_decodeFrame f i s' hf, by rw [hs]; rfl⟩

/-- A step answers alike on both, or both are stuck at the same access. -/
theorem step_same (s s' : State) (hs : SameButLifecycle s s') :
    (∃ t t', step s = .next t ∧ step s' = .next t' ∧ SameButLifecycle t t') ∨
    (∃ f, step s = .fault f ∧ step s' = .fault f) := by
  have hseq' : s'.seq = s.seq := by rw [hs]
  have hport' : s'.port = s.port := by rw [hs]
  have hcfg' : s'.cfg = s.cfg := by rw [hs]
  cases hseq : s.seq with
  | nil =>
    rw [step_idle s hseq, step_idle s' (hseq'.trans hseq)]
    cases hport : s.port with
    | nil =>
      exact .inl ⟨s, s', fetchRequest_nil s hport, fetchRequest_nil s' (hport'.trans hport), hs⟩
    | cons r rest =>
      rw [fetchRequest_cons s r rest hport, fetchRequest_cons s' r rest (hport'.trans hport)]
      cases hdec : decodeRequest s.cfg r with
      | error e =>
        exact .inl ⟨_, _, acceptRequest_error r (s.setPort rest) e hdec,
          acceptRequest_error r (s'.setPort rest) e (hcfg' ▸ hdec), by rw [hs]; rfl⟩
      | ok i =>
        rw [acceptRequest_ok r (s.setPort rest) i hdec, acceptRequest_ok r (s'.setPort rest) i (hcfg' ▸ hdec)]
        exact .inl (exec_same i _ _ (by rw [hs]; rfl))
  | cons op rest =>
    by_cases hf : ∃ f, op = .frame f
    · obtain ⟨f, rfl⟩ := hf
      rw [step_frame s f rest hseq, step_frame s' f rest (hseq'.trans hseq), runFrame_eq, runFrame_eq]
      exact .inl ⟨_, _, rfl, rfl, by rw [hs]; rfl⟩
    · have hnot : ∀ f, op ≠ .frame f := fun f h => hf ⟨f, h⟩
      rw [step_resume s op rest hseq hnot, step_resume s' op rest (hseq'.trans hseq) hnot]
      have hstuck' : stuckAt op s' = stuckAt op s := by rw [hs]; rfl
      cases hstuck : stuckAt op s with
      | some a =>
        exact .inr ⟨_, resume_stuck op rest s a hstuck, resume_stuck op rest s' a (hstuck'.trans hstuck)⟩
      | none =>
        exact .inl ⟨_, _, resume_free op rest s hstuck, resume_free op rest s' (hstuck'.trans hstuck),
          runOps_same (op :: rest) s s' hs⟩

/-- Settles O48: the two machines side by side, instruction by instruction and step by step. -/
theorem lifecycleGatesNothing : Obligations.LifecycleGatesNothing := by
  intro s s' hs
  refine ⟨fun i => exec_same i s s' hs, fun t ht => ?_, fun f hf => ?_⟩
  · rcases step_same s s' hs with ⟨u, u', hu, hu', h⟩ | ⟨f, hf, -⟩
    · obtain rfl := Host.Outcome.next.inj (ht.symm.trans hu)
      exact ⟨u', hu', h⟩
    · exact absurd (ht.symm.trans hf) (by simp)
  · rcases step_same s s' hs with ⟨u, -, hu, -⟩ | ⟨g, hg, hg'⟩
    · exact absurd (hf.symm.trans hu) (by simp)
    · rw [hg', ← hf, hg]

/-! A request in progress: it ends with its one response, or stands where it is. -/

/-- Request `i` has ended with its effect: its response, and the `LIFE` it leaves (R26, R261). -/
def Ended (i : Instr) (s t : State) : Prop :=
  Idle t ∧ t.latched = none ∧ t.responses = s.responses ++ [⟨0, 0⟩] ∧ t.life = lifeAfter i s.life

/-- Request `r`, that is `i`, stands in progress, and has neither answered nor set `LIFE` since `s`. -/
def Stands (r : Request) (i : Instr) (s t : State) : Prop :=
  InProgress r i t ∧ t.responses = s.responses ∧ t.life = s.life

/-- Running what is left of a latched request ends it or leaves it standing. -/
theorem runOps_ends_or_stands (r : Request) (i : Instr) (body : List SeqOp) (s : State)
    (hlatched : s.latched = some r) (hdec : decodeRequest s.cfg r = .ok i) (hbody : body.all bodyOp = true) :
    Ended i s (runOps (body ++ closing i) s) ∨ Stands r i s (runOps (body ++ closing i) s) := by
  have hi := decodeRequest_isRequest s.cfg r i hdec
  rcases runOps_request i body s hi hbody with hended | ⟨hl, hr, hlife, ⟨left, hseq, -, hleft⟩, hwhere⟩
  · exact .inl hended
  · exact .inr ⟨⟨hl.trans hlatched, by rw [runOps_cfg, hdec], ⟨left, hseq, hleft⟩, hwhere⟩, hr, hlife⟩

/-- A request in progress has operations left. -/
theorem inProgress_seq_ne_nil {r : Request} {i : Instr} {s : State} (h : InProgress r i s) : s.seq ≠ [] := by
  obtain ⟨-, -, -, ⟨a, op, rest, hseq, -⟩ | ⟨-, j, rest, hseq⟩⟩ := h <;> simp [hseq]

/-- No request in progress has a frame next. -/
theorem inProgress_head_ne_frame {r : Request} {i : Instr} {s : State} (h : InProgress r i s) (f : Frame)
    (rest : List SeqOp) : s.seq ≠ .frame f :: rest := by
  obtain ⟨-, -, -, ⟨a, op, left, hseq, ha, -⟩ | ⟨-, j, left, hseq⟩⟩ := h
  · intro hframe
    obtain ⟨rfl, -⟩ := List.cons.inj (hseq.symm.trans hframe)
    simp [opAddr] at ha
  · simp [hseq]

/-- A step that goes on with a request runs what is left of it. -/
theorem inProgress_step_eq {r : Request} {i : Instr} {s t : State} (h : InProgress r i s)
    (hstep : step s = .next t) : t = runOps s.seq s := by
  rcases step_cases s t hstep with ⟨hseq, -⟩ | ⟨_, _, _, hseq, -⟩ | ⟨_, _, _, hseq, -⟩ | ⟨f, rest, hseq, -⟩ |
    ⟨op, rest, hseq, -, ht⟩
  · exact absurd hseq (inProgress_seq_ne_nil h)
  · exact absurd hseq (inProgress_seq_ne_nil h)
  · exact absurd hseq (inProgress_seq_ne_nil h)
  · exact absurd hseq (inProgress_head_ne_frame h f rest)
  · rw [hseq, ht]

/-- A step ends the request in progress or leaves it standing. -/
theorem inProgress_ends_or_stands {r : Request} {i : Instr} {s t : State} (h : InProgress r i s)
    (hstep : step s = .next t) : Ended i s t ∨ Stands r i s t := by
  obtain ⟨hlatched, hdec, ⟨body, hseq, hbody⟩, -⟩ := id h
  rw [inProgress_step_eq h hstep, hseq]
  exact runOps_ends_or_stands r i body s hlatched hdec hbody

/-- A request taken up is answered at once with `LIFE` as it was, or ends with its effect, or stands. -/
theorem exec_ends_or_stands (r : Request) (i : Instr) (s t : State) (hlatched : s.latched = some r)
    (hdec : decodeRequest s.cfg r = .ok i) (he : exec i s = .next t) :
    (Idle t ∧ t.latched = none ∧ t.life = s.life) ∨ Ended i s t ∨ Stands r i s t := by
  obtain ⟨u, hstart, ⟨a, ha⟩ | ⟨body, hbody, hrun⟩⟩ := exec_body i s (decodeRequest_isRequest s.cfg r i hdec)
  all_goals obtain ⟨hcfg, -, -, hresp, hlat, hlife, -⟩ := hstart.fixed
  · obtain rfl := Host.Outcome.next.inj (ha.symm.trans he)
    exact .inl ⟨rfl, rfl, hlife⟩
  · obtain rfl := Host.Outcome.next.inj (hrun.symm.trans he)
    have hrest := runOps_ends_or_stands r i body u (hlat.trans hlatched) (by rw [hcfg, hdec]) hbody
    rw [Ended, Stands, hresp, hlife] at hrest
    exact .inr hrest

/-- A step from between two steps leaves nothing in progress and `LIFE` as it was, or ends the request it works on, or
leaves it standing. -/
theorem step_ends_or_stands (s t : State) (hs : BetweenSteps s) (hstep : step s = .next t) :
    (Idle t ∧ t.latched = none ∧ t.life = s.life) ∨
    ∃ r i, currentRequest s = some r ∧ decodeRequest s.cfg r = .ok i ∧ (Ended i s t ∨ Stands r i s t) := by
  rcases hs with ⟨hidle, hlatched⟩ | ⟨r, i, hin⟩
  · rcases step_cases s t hstep with ⟨-, -, rfl⟩ | ⟨r, rest, e, -, -, -, rfl⟩ |
      ⟨r, rest, i, -, hport, hdec, he⟩ | ⟨f, rest, hseq, -⟩ | ⟨op, rest, hseq, -⟩
    · exact .inl ⟨hidle, hlatched, rfl⟩
    · exact .inl ⟨hidle, hlatched, rfl⟩
    · have hcur : currentRequest s = some r := by simp [currentRequest, hlatched, hport]
      refine (exec_ends_or_stands r i ((s.setPort rest).setLatched (some r)) t rfl hdec he).imp id ?_
      exact fun h => ⟨r, i, hcur, hdec, h⟩
    · exact absurd (hidle.symm.trans hseq) (by simp)
    · exact absurd (hidle.symm.trans hseq) (by simp)
  · obtain ⟨hlatched, hdec, -⟩ := id hin
    exact .inr ⟨r, i, by simp [currentRequest, hlatched], hdec, inProgress_ends_or_stands hin hstep⟩

/-- Settles O54: the request a step works on has ended, or stands in progress. -/
theorem stepKeepsTheRequestInProgress : Obligations.StepKeepsTheRequestInProgress := by
  refine ⟨?between, ?inside⟩
  case between =>
    intro s t hs hstep
    rcases step_ends_or_stands s t hs hstep with ⟨h, hl, -⟩ | ⟨r, i, -, -, ⟨h, hl, -⟩ | ⟨hin, -⟩⟩
    · exact .inl ⟨h, hl⟩
    · exact .inl ⟨h, hl⟩
    · exact .inr ⟨r, i, hin⟩
  case inside =>
    intro s t r i hin hstep
    rcases inProgress_ends_or_stands hin hstep with ⟨h, hl, hr, -⟩ | ⟨hin', hr, -⟩
    · exact .inl ⟨h, hl, hr⟩
    · exact .inr ⟨hin', hr⟩

/-! `LIFE`. -/

/-- A request leaves `LIFE` alone unless it is INIT or SLEEP (R26). -/
theorem lifeAfter_cases (i : Instr) (l : Life) :
    lifeAfter i l = l ∨ ((∃ mode, i = .init mode) ∧ lifeAfter i l = .initialized) ∨
    (i = .sleep ∧ lifeAfter i l = .sleeping) := by
  unfold lifeAfter
  split
  next h => exact .inr (.inl ⟨h.elim (fun h => ⟨_, h⟩) (fun h => ⟨_, h⟩), rfl⟩)
  next =>
    split
    next h => exact .inr (.inr ⟨h, rfl⟩)
    next => exact .inl rfl

/-- An instruction leaves `LIFE` alone, or sets it as the request it is does. -/
theorem exec_life (i : Instr) (s t : State) (h : exec i s = .next t) :
    t.life = s.life ∨ t.life = lifeAfter i s.life := by
  cases hi : i.isRequest with
  | true =>
    obtain ⟨u, hstart, ⟨a, ha⟩ | ⟨body, hbody, hrun⟩⟩ := exec_body i s hi
    all_goals obtain ⟨-, -, -, -, -, hlife, -⟩ := hstart.fixed
    · obtain rfl := Host.Outcome.next.inj (ha.symm.trans h)
      exact .inl hlife
    · obtain rfl := Host.Outcome.next.inj (hrun.symm.trans h)
      rw [← hlife]
      rcases runOps_request i body u hi hbody with ⟨-, -, -, hl⟩ | ⟨-, -, hl, -⟩
      · exact .inr hl
      · exact .inl hl
  | false =>
    obtain ⟨f, he, -⟩ := exec_wireFrame i s hi
    obtain rfl := Host.Outcome.next.inj (he.symm.trans h)
    exact .inl rfl

/-- An INIT whose bring-up fails leaves `LIFE` alone (R100, R221). -/
theorem execInit_failed_life (mode : InitMode) (s t : State) (h : exec (.init mode) s = .next t)
    (hup : upResult s = .failure) : t.life = s.life := by
  have he : exec (.init mode) s = .next (endRequest ((bringUp s).addResponse respFail)) := by
    show Host.Outcome.next (runOps (initAfter s.cfg mode (upResult s)) (bringUp s)) = _
    rw [hup]; rfl
  obtain rfl := Host.Outcome.next.inj (he.symm.trans h)
  simp only [endRequest_life, State.addResponse_life, bringUp_life]

/-- `LIFE` after any instruction: as before, INITIALIZED by an INIT brought up, or SLEEPING by SLEEP. -/
theorem exec_life_cases (i : Instr) (s t : State) (h : exec i s = .next t) :
    t.life = s.life ∨ ((∃ mode, i = .init mode) ∧ t.life = .initialized ∧ upAnswer s = .success) ∨
    (i = .sleep ∧ t.life = .sleeping) := by
  rcases exec_life i s t h with hkept | hset
  · exact .inl hkept
  · rw [hset]
    rcases lifeAfter_cases i s.life with hsame | ⟨⟨mode, rfl⟩, hinit⟩ | hsleep
    · exact .inl hsame
    · rw [← upResult_eq]
      cases hup : upResult s with
      | success => exact .inr (.inl ⟨⟨mode, rfl⟩, hinit, rfl⟩)
      | failure => exact .inl (hset ▸ execInit_failed_life mode s t h hup)
    · exact .inr (.inr hsleep)

/-- A step that changes `LIFE` ends, with its effect, the request it works on. -/
theorem step_life_change (s t : State) (hs : BetweenSteps s) (hstep : step s = .next t)
    (hchange : t.life ≠ s.life) :
    ∃ r i, currentRequest s = some r ∧ decodeRequest s.cfg r = .ok i ∧ Ended i s t := by
  rcases step_ends_or_stands s t hs hstep with ⟨-, -, hlife⟩ | ⟨r, i, hcur, hdec, hended | ⟨-, -, hlife⟩⟩
  · exact absurd hlife hchange
  · exact ⟨r, i, hcur, hdec, hended⟩
  · exact absurd hlife hchange

/-- Settles O47: only the end of a request sets `LIFE`, and only that of INIT and SLEEP to a value of its own. -/
theorem lifeChangesOnlyByInitAndSleep : Obligations.LifeChangesOnlyByInitAndSleep := by
  refine ⟨exec_life_cases, ?step, ?inside⟩
  case step =>
    intro s t hs hstep hchange
    obtain ⟨r, i, hcur, hdec, hidle, -, hresp, hlife⟩ := step_life_change s t hs hstep hchange
    refine ⟨hidle, hresp, r, hcur, ?_⟩
    rw [hdec, hlife]
    rcases lifeAfter_cases i s.life with hsame | ⟨⟨mode, rfl⟩, hinit⟩ | ⟨rfl, hsleep⟩
    · exact absurd (hlife.trans hsame) hchange
    · exact .inl ⟨mode, rfl, hinit⟩
    · exact .inr ⟨rfl, hsleep⟩
  case inside =>
    intro s t r i hin hstep
    rcases inProgress_ends_or_stands hin hstep with ⟨hidle, -, -, hlife⟩ | ⟨hin', -, hlife⟩
    · have hended : t.seq = [] := hidle
      rw [if_pos hended, hlife]
    · rw [if_neg (inProgress_seq_ne_nil hin'), hlife]

/-! The invariant. -/

/-- What was performed keeps memory canonical and both latches at the level last driven. What is left to show is where
`LIFE` and the reset pin will stand. -/
theorem inv_of_performed {s t : State} {l : List Act} (h : Inv s) (hp : Performed s t l)
    (hagree : rstOfLife (lifeAndRst t.life t.rstL t.seq).1 (lifeAndRst t.life t.rstL t.seq).2 = true) : Inv t := by
  obtain ⟨hwf, hrst, hdc, -⟩ := h
  refine ⟨hp.wf hwf, ?_, ?_, hagree⟩
  · rw [hp.rstL, hp.log, lastLevel_append, ← hrst]
  · rw [hp.dcL, hp.log, lastLevel_append, ← hdc]

/-- Running a sequence keeps the invariant if the reset pin agrees with `LIFE` once the whole sequence is done. -/
theorem inv_runOps {s u : State} {l : List Act} (h : Inv s) (hp : Performed s u l) (ops : List SeqOp)
    (hagree : rstOfLife (lifeAndRst u.life u.rstL ops).1 (lifeAndRst u.life u.rstL ops).2 = true) :
    Inv (runOps ops u) := by
  obtain ⟨m, hrun, -, hend⟩ := performed_runOps ops u
  exact inv_of_performed h (hp.trans hrun) (by rw [hend]; exact hagree)

/-- A request taken up with none in progress keeps the invariant. -/
theorem inv_exec {i : Instr} {s t : State} (h : Inv s) (hidle : Idle s) (hi : i.isRequest = true)
    (he : exec i s = .next t) : Inv t := by
  obtain ⟨ops, r, u, hrun, hops, hstart⟩ := exec_request i s hi
  obtain rfl := Host.Outcome.next.inj (hrun.symm.trans he)
  obtain ⟨l, hp, -, hlife, hrst⟩ := hstart.performed
  refine inv_runOps h hp _ ?_
  rw [hlife, hrst, lifeAndRst_append]
  obtain ⟨-, -, -, hagree⟩ := h
  rw [hidle] at hagree
  rcases hops.lifeAndRst with hsame | hup | hdown
  · rw [hsame]; exact hagree
  · rw [hup]; rfl
  · rw [hdown]; rfl

/-- Settles O59, by the cases of what a step can do. -/
theorem stepKeepsTheInvariant : Obligations.StepKeepsTheInvariant := by
  intro s t h hstep
  obtain ⟨-, -, -, hagree⟩ := id h
  rcases step_cases s t hstep with ⟨-, -, rfl⟩ | ⟨r, rest, e, -, -, -, rfl⟩ |
    ⟨r, rest, i, hidle, -, hdec, he⟩ | ⟨f, rest, hseq, rfl⟩ | ⟨op, rest, hseq, -, rfl⟩
  case inl => exact h
  case inr.inl => exact h
  case inr.inr.inl =>
    have htaken : Inv ((s.setPort rest).setLatched (some r)) := h
    exact inv_exec htaken hidle (decodeRequest_isRequest s.cfg r i hdec) he
  case inr.inr.inr.inl =>
    have hp : Performed s (sendFrame f (s.setSeq rest)) (frameActs s.cfg f) :=
      (performed_nothing s (s.setSeq rest) rfl rfl rfl rfl rfl).trans (performed_sendFrame f _)
    rw [hseq] at hagree
    exact inv_of_performed h hp hagree
  case inr.inr.inr.inr =>
    rw [hseq] at hagree
    exact inv_runOps h (performed_nothing s s rfl rfl rfl rfl rfl) (op :: rest) hagree

end Sys2Proof.StateFamily
end

section
/-! PROOFS of the family 20_memory.md: host memory and its access log (R50, R59, R64), requests stuck at an access that
is not admitted (R50, R225), and the byte and the bit of a pixel (R52). -/

namespace Sys2Proof.MemoryFamily

open Sys2Proof Machine Safety

/-! The access log. -/

/-- An instruction performs a piece of log: its start's, then its operations', or one frame. -/
theorem exec_performed (i : Instr) (s t : State) (h : exec i s = .next t) : ∃ l, Performed s t l := by
  cases hi : i.isRequest with
  | true =>
    obtain ⟨ops, r, u, he, -, hstart⟩ := exec_request i s hi
    obtain rfl := Host.Outcome.next.inj (he.symm.trans h)
    obtain ⟨l, hl, -⟩ := hstart.performed
    obtain ⟨m, hm, -⟩ := performed_runOps (ops ++ [.respond r]) u
    exact ⟨l ++ m, hl.trans hm⟩
  | false =>
    obtain ⟨f, he, -⟩ := exec_wireFrame i s hi
    obtain rfl := Host.Outcome.next.inj (he.symm.trans h)
    exact ⟨_, performed_sendFrame f s⟩

/-- A step performs a piece of log, whatever kind of step it is. -/
theorem step_performed (s t : State) (h : step s = .next t) : ∃ l, Performed s t l := by
  rcases step_cases s t h with ⟨-, -, rfl⟩ | ⟨r, rest, e, -, -, -, rfl⟩ | ⟨r, rest, i, -, -, -, he⟩ |
    ⟨f, rest, -, rfl⟩ | ⟨op, rest, -, -, rfl⟩
  case inl => exact ⟨[], performed_nothing _ _ rfl rfl rfl rfl rfl⟩
  case inr.inl => exact ⟨[], performed_nothing _ _ rfl rfl rfl rfl rfl⟩
  case inr.inr.inl =>
    obtain ⟨l, hl⟩ := exec_performed i _ t he
    exact ⟨_, (performed_nothing s ((s.setPort rest).setLatched (some r)) rfl rfl rfl rfl rfl).trans hl⟩
  case inr.inr.inr.inl =>
    exact ⟨_, (performed_nothing s (s.setSeq rest) rfl rfl rfl rfl rfl).trans (performed_sendFrame f _)⟩
  case inr.inr.inr.inr =>
    obtain ⟨l, hl, -⟩ := performed_runOps (op :: rest) s
    exact ⟨l, hl⟩

/-- Settles O57: what a step performs accounts for its log, for memory, and for every access. -/
theorem memoryIsItsAccessLog : Obligations.MemoryIsItsAccessLog := by
  intro s t h
  obtain ⟨l, hl⟩ := step_performed s t h
  exact ⟨l, hl.log, hl.mem, hl.accesses⟩

/-! Stuck machines. -/

/-- Settles O12: only memory operations have an address, so the step resumes the request, and finds it stuck. -/
theorem stuckMachineHasNoNextStep : Obligations.StuckMachineHasNoNextStep := by
  rintro s a ⟨op, rest, hseq, haddr, hno⟩
  have hframe : ∀ f, op ≠ .frame f := by
    rintro f rfl
    simp [opAddr] at haddr
  have hstuck : stuckAt op s = some a := by simp [stuckAt, haddr, hno]
  rw [step_resume s op rest hseq hframe, resume_stuck op rest s a hstuck]

/-- A machine left standing before an access that is not admitted is stuck there. -/
theorem stuckAt_setSeq {op : SeqOp} {left : List SeqOp} {u : State} {a : Nat} (haddr : opAddr op = some a)
    (hno : admits u.cfg a = false) : StuckAt (u.setSeq (op :: left)) a :=
  ⟨op, left, rfl, haddr, hno⟩

/-- The next step of a machine left standing before an access that is not admitted is the fault. -/
theorem step_setSeq_faults {op : SeqOp} {left : List SeqOp} {u : State} {a : Nat} (haddr : opAddr op = some a)
    (hno : admits u.cfg a = false) : step (u.setSeq (op :: left)) = .fault (.unadmittedAccess a) :=
  stuckMachineHasNoNextStep _ a (stuckAt_setSeq haddr hno)

/-- Bytes sent up to the first address that is not admitted (R140, R225). -/
theorem runOps_sendMems_blocked (as bs : List Nat) (a : Nat) (ops : List SeqOp) (s : State)
    (has : ∀ b ∈ as, admits s.cfg b = true) (hno : admits s.cfg a = false) :
    runOps ((as ++ a :: bs).map SeqOp.sendMem ++ ops) s =
      ((s.addLog (sendActs s.cfg s.mem as)).setDc (if as = [] then s.dcL else some s.cfg.dcCmdLevel.other)).setSeq
        (.sendMem a :: (bs.map SeqOp.sendMem ++ ops)) := by
  rw [List.map_append, List.append_assoc, runOps_sendMems as _ s has]
  exact runOps_blocked (.sendMem a) a _ _ rfl hno

/-- A RAM-write command and its data up to the first address that is not admitted (R107, R140, R225). -/
theorem runOps_dataPhase_blocked (b : Byte) (as bs : List Nat) (a : Nat) (ops : List SeqOp) (s : State)
    (has : ∀ b ∈ as, admits s.cfg b = true) (hno : admits s.cfg a = false) :
    runOps (cmdOp b :: ((as ++ a :: bs).map SeqOp.sendMem ++ ops)) s =
      (((s.addLog (frameActs s.cfg (.cmd b))).addLog (sendActs s.cfg s.mem as)).setDc
        (some (if as = [] then s.cfg.dcCmdLevel else s.cfg.dcCmdLevel.other))).setSeq
        (.sendMem a :: (bs.map SeqOp.sendMem ++ ops)) := by
  rw [cmdOp, runOps_frame, sendFrame_eq,
    runOps_sendMems_blocked as bs a ops ((s.addLog _).setDc _) has hno, apply_ite some]
  rfl

/-- Bytes written up to the first address that is not admitted (R160, R225). -/
theorem runOps_stores_blocked (as bs : List Nat) (a : Nat) (v : Byte) (ops : List SeqOp) (s : State)
    (has : ∀ b ∈ as, admits s.cfg b = true) (hno : admits s.cfg a = false) :
    runOps ((as ++ a :: bs).map (fun a => SeqOp.store a v) ++ ops) s =
      ((s.setMem (fillMem s.mem as v)).addLog (as.map fun a => Act.wr a v)).setSeq
        (.store a v :: (bs.map (fun a => SeqOp.store a v) ++ ops)) := by
  rw [List.map_append, List.append_assoc, runOps_stores as v _ s has]
  exact runOps_blocked (.store a v) a _ _ rfl hno

/-! The addresses of a buffer, and those of a rectangle in it, in the order they are accessed. -/

/-- The `len` addresses from `base` on. -/
def rangeAddrs (base len : Nat) : List Nat := (List.range len).map (base + ·)

/-- The addresses of `rows` rows of `cols` bytes, a row every `stride` bytes (R107). -/
def rectAddrs (base stride rows cols : Nat) : List Nat :=
  (List.range rows).flatMap fun j => rangeAddrs (base + j * stride) cols

theorem mem_rangeAddrs (base len a : Nat) : a ∈ rangeAddrs base len ↔ base ≤ a ∧ a < base + len := by
  simp only [rangeAddrs, List.mem_map, List.mem_range]
  constructor
  · rintro ⟨i, hi, rfl⟩
    omega
  · rintro ⟨hle, hlt⟩
    exact ⟨a - base, by omega, by omega⟩

theorem rangeAddrs_admitted {c : Config} {base len : Nat} (h : RangeAdmitted c base len) :
    ∀ a ∈ rangeAddrs base len, admits c a = true := by
  simp only [rangeAddrs, List.mem_map, List.mem_range]
  rintro _ ⟨i, hi, rfl⟩
  exact h i hi

theorem rectAddrs_admitted {c : Config} {base stride rows cols : Nat}
    (h : ∀ r, r < rows → RangeAdmitted c (base + r * stride) cols) :
    ∀ a ∈ rectAddrs base stride rows cols, admits c a = true := by
  simp only [rectAddrs, List.mem_flatMap, List.mem_range]
  rintro a ⟨r, hr, ha⟩
  exact rangeAddrs_admitted (h r hr) a ha

/-- The numbers below `n` pass through each of them. -/
theorem range_split {k n : Nat} (h : k < n) : ∃ after, List.range n = List.range k ++ k :: after := by
  obtain ⟨d, rfl⟩ : ∃ d, n = k + (d + 1) := ⟨n - k - 1, by omega⟩
  exact ⟨_, by rw [List.range_add, List.range_succ_eq_map, List.map_cons, Nat.add_zero]⟩

theorem rangeAddrs_split (base : Nat) {k len : Nat} (h : k < len) :
    ∃ after, rangeAddrs base len = rangeAddrs base k ++ (base + k) :: after := by
  obtain ⟨after, hafter⟩ := range_split h
  exact ⟨_, by rw [rangeAddrs, hafter, List.map_append, List.map_cons, ← rangeAddrs]⟩

theorem rectAddrs_split (base stride : Nat) {j k rows cols : Nat} (hj : j < rows) (hk : k < cols) :
    ∃ after, rectAddrs base stride rows cols =
      (rectAddrs base stride j cols ++ rangeAddrs (base + j * stride) k) ++ (base + j * stride + k) :: after := by
  obtain ⟨rowsAfter, hrows⟩ := range_split hj
  obtain ⟨after, hrow⟩ := rangeAddrs_split (base + j * stride) hk
  refine ⟨after ++ rowsAfter.flatMap fun r => rangeAddrs (base + r * stride) cols, ?_⟩
  simp only [rectAddrs, hrows, List.flatMap_append, List.flatMap_cons, hrow, List.append_assoc, List.cons_append]

theorem rangeAddrs_eq_nil (base len : Nat) : rangeAddrs base len = [] ↔ len = 0 := by
  simp [rangeAddrs]

theorem rectAddrs_eq_nil (base stride rows cols : Nat) (hcols : 0 < cols) :
    rectAddrs base stride rows cols = [] ↔ rows = 0 := by
  cases rows with
  | zero => simp [rectAddrs]
  | succ n => simp [rectAddrs, List.range_succ, rangeAddrs_eq_nil, hcols.ne']

theorem sendActs_append (c : Config) (m : Memory) (as bs : List Nat) :
    sendActs c m (as ++ bs) = sendActs c m as ++ sendActs c m bs := List.flatMap_append

theorem sendActs_rangeAddrs (c : Config) (m : Memory) (base len : Nat) :
    sendActs c m (rangeAddrs base len) = bufferActs c m base len := List.flatMap_map ..

theorem sendActs_rectAddrs (c : Config) (m : Memory) (base stride rows cols : Nat) :
    sendActs c m (rectAddrs base stride rows cols) =
      (List.range rows).flatMap fun r => bufferActs c m (base + r * stride) cols := by
  simp only [← sendActs_rangeAddrs]
  exact List.flatMap_assoc

/-! The data phases of the requests, by their addresses. -/

theorem sendBufferOps_eq (c : Config) (b : Byte) (base : Nat) :
    sendBufferOps c b base = cmdOp b :: (rangeAddrs base (bufLen c)).map SeqOp.sendMem := by
  rw [sendBufferOps, rangeAddrs, List.map_map]
  rfl

theorem clearOps_eq (c : Config) (base : Nat) (v : Byte) :
    clearOps c base v = (rangeAddrs base (bufLen c)).map fun a => SeqOp.store a v := by
  rw [clearOps, rangeAddrs, List.map_map]
  rfl

theorem blitDataOps_eq (base : Nat) (g : BlitGeom) :
    blitDataOps base g = (rectAddrs base g.stride g.rows g.cols).map SeqOp.sendMem := by
  simp only [blitDataOps, rectAddrs, rangeAddrs, List.map_flatMap, List.map_map]
  rfl

/-! The writes and FBCLEAR. -/

/-- Each write of a buffer begins with MISUSE and bank 1 (R27, R101, R102, R104). -/
theorem exec_write_begins (a : Word) (s : State) :
    ∀ i ∈ [Instr.wrfull (some a), .wrbase (some a), .wrpart (some a)],
      ∃ ops, exec i s = .next (runOps (sendBufferOps s.cfg 0x24 a.toNat ++ ops) (markMisuse s)) := by
  simp only [List.forall_mem_cons, List.not_mem_nil, IsEmpty.forall_iff, implies_true, and_true]
  refine ⟨⟨refreshFullOps ++ [SeqOp.respond respDone], ?_⟩,
    ⟨sendBufferOps s.cfg 0x26 a.toNat ++ refreshFullOps ++ [SeqOp.respond respDone], ?_⟩,
    ⟨refreshPartOps ++ [SeqOp.respond respDone], ?_⟩⟩
  · rw [← List.append_assoc]; rfl
  · rw [← List.append_assoc, ← List.append_assoc]; rfl
  · rw [← List.append_assoc]; rfl

/-- FBCLEAR of a buffer begins with its stores (R160). -/
theorem exec_fbclear_runs (a : Word) (col : Bool) (s : State) :
    exec (.fbclear (some a) col) s =
      .next (runOps (clearOps s.cfg a.toNat (fillByte col) ++ [.respond respDone]) s) := rfl

/-- A buffer sent up to its first byte that is not admitted. -/
theorem runOps_sendBuffer_blocked (b : Byte) (base k : Nat) (ops : List SeqOp) (s : State) (hk : k < bufLen s.cfg)
    (hadm : RangeAdmitted s.cfg base k) (hno : admits s.cfg (base + k) = false) :
    ∃ left, runOps (sendBufferOps s.cfg b base ++ ops) s =
      (((s.addLog (frameActs s.cfg (.cmd b))).addLog (bufferActs s.cfg s.mem base k)).setDc
        (some (if k = 0 then s.cfg.dcCmdLevel else s.cfg.dcCmdLevel.other))).setSeq
        (.sendMem (base + k) :: left) := by
  obtain ⟨after, hsplit⟩ := rangeAddrs_split base hk
  refine ⟨after.map SeqOp.sendMem ++ ops, ?_⟩
  rw [sendBufferOps_eq, hsplit, List.cons_append,
    runOps_dataPhase_blocked b _ after _ ops s (rangeAddrs_admitted hadm) hno, sendActs_rangeAddrs]
  simp only [rangeAddrs_eq_nil]

/-- A buffer filled up to its first byte that is not admitted. -/
theorem runOps_clear_blocked (v : Byte) (base k : Nat) (ops : List SeqOp) (s : State) (hk : k < bufLen s.cfg)
    (hadm : RangeAdmitted s.cfg base k) (hno : admits s.cfg (base + k) = false) :
    ∃ left, runOps (clearOps s.cfg base v ++ ops) s =
      ((s.setMem (fillMem s.mem (rangeAddrs base k) v)).addLog
        ((List.range k).map fun i => Act.wr (base + i) v)).setSeq (.store (base + k) v :: left) := by
  obtain ⟨after, hsplit⟩ := rangeAddrs_split base hk
  have hlog : (rangeAddrs base k).map (fun a => Act.wr a v) = (List.range k).map fun i => Act.wr (base + i) v :=
    List.map_map
  refine ⟨after.map (fun a => SeqOp.store a v) ++ ops, ?_⟩
  rw [clearOps_eq, hsplit, runOps_stores_blocked _ after _ v ops s (rangeAddrs_admitted hadm) hno, hlog]

/-- Settles O28: the sequence runs up to the byte, and stands before it. -/
theorem unadmittedByteSticksTheWrite : Obligations.UnadmittedByteSticksTheWrite := by
  intro a k s hk hadm hno
  refine ⟨fun i hi => ?write, fun col hwf => ?clear⟩
  case write =>
    obtain ⟨ops, he⟩ := exec_write_begins a s i hi
    obtain ⟨left, hrun⟩ := runOps_sendBuffer_blocked 0x24 a.toNat k ops (markMisuse s) hk hadm hno
    rw [markMisuse_cfg, markMisuse_mem] at hrun
    rw [he, hrun]
    refine ⟨_, rfl, stuckAt_setSeq rfl (by simpa using hno), step_setSeq_faults rfl (by simpa using hno), ?_⟩
    simp only [State.setSeq, State.setDc, State.addLog, markMisuse, State.setMisuse, misuseAfter]
  case clear =>
    obtain ⟨left, hrun⟩ :=
      runOps_clear_blocked (fillByte col) a.toNat k [.respond respDone] s hk hadm hno
    rw [exec_fbclear_runs, hrun]
    refine ⟨_, rfl, stuckAt_setSeq rfl hno, step_setSeq_faults rfl hno, fun x => ?_, fillMem_wf _ _ _ hwf, ?_⟩
    · refine (readByte_fillMem _ _ _ x hwf).trans ?_
      simp only [mem_rangeAddrs]
      rfl
    · simp only [State.setSeq, State.setMem, State.addLog, fillByte]

/-! BLIT. -/

@[simp] theorem afterSamples_cfg (m : Nat) (s : State) : (afterSamples m s).cfg = s.cfg := rfl

@[simp] theorem afterSamples_mem (m : Nat) (s : State) : (afterSamples m s).mem = s.mem := rfl

/-- The window and the pointer of a BLIT (R105, R134, R135). -/
def windowFrames (x0 y xe ye : Int) : List Frame :=
  [.cmd 0x44, .dat (xb x0), .dat (xb xe), .cmd 0x45, .dat (lo8 y), .dat (hi8 y), .dat (lo8 ye), .dat (hi8 ye),
    .cmd 0x4E, .dat (xb x0), .cmd 0x4F, .dat (lo8 y), .dat (hi8 y)]

theorem blitOps_eq (base : Nat) (y : Int) (g : BlitGeom) :
    blitOps base y g = (windowFrames g.x0 y g.xe g.ye).map SeqOp.frame ++
      .wait 0 :: cmdOp 0x24 :: ((rectAddrs base g.stride g.rows g.cols).map SeqOp.sendMem ++
        [.respond respDone]) := by
  rw [blitOps, blitDataOps_eq]
  rfl

/-- R106's values in its own arithmetic. -/
theorem blitGeom_eq {c : Config} {x y wd ht x0 w0 xe ye : Int} {stride rows cols : Nat}
    (hx0 : x0 = x - x % 8) (hw0 : w0 = wd - wd % 8) (hxe : xe = min (x0 + w0 - 1) (c.width - 1))
    (hye : ye = min (y + ht - 1) (c.height - 1)) (hstride : stride = (w0 / 8).toNat)
    (hrows : rows = (ye - y + 1).toNat) (hcols : cols = ((xe - x0 + 1) / 8).toNat) :
    blitGeom c x y wd ht = ⟨x0, w0, xe, ye, stride, rows, cols⟩ := by
  have max_toNat : ∀ v : Int, (max 0 v).toNat = v.toNat := fun v => by omega
  subst hx0 hw0 hxe hye hstride hrows hcols
  simp only [blitGeom, round8, max_toNat]

/-- A BLIT whose arguments pass marks MISUSE and runs its sequence (R105). -/
theorem exec_blit_runs (a x y wd ht : Word) (s : State) (hx : 0 ≤ x.toInt) (hy : 0 ≤ y.toInt)
    (hwd : 0 ≤ wd.toInt) (hht : 0 ≤ ht.toInt) :
    exec (.blit (some a) x y wd ht) s =
      .next (runOps (blitOps a.toNat y.toInt (blitGeom s.cfg x.toInt y.toInt wd.toInt ht.toInt)) (markMisuse s)) := by
  have hargs : blitArgsOk (coord x) (coord y) (coord wd) (coord ht) = true := by
    simp [blitArgsOk, coord, hx, hy, hwd, hht]
  exact congrArg _ (if_pos hargs)

/-- A rectangle sent up to its first byte that is not admitted, in row `j` at column `k`. -/
theorem runOps_sendRect_blocked (b : Byte) (base stride j k : Nat) {rows cols : Nat} (ops : List SeqOp) (s : State)
    {c : Config} {m : Memory} (hc : s.cfg = c) (hm : s.mem = m) (hj : j < rows) (hk : k < cols)
    (hrows : ∀ r, r < j → RangeAdmitted c (base + r * stride) cols)
    (hrow : RangeAdmitted c (base + j * stride) k) (hno : admits c (base + j * stride + k) = false) :
    ∃ left, runOps (cmdOp b :: ((rectAddrs base stride rows cols).map SeqOp.sendMem ++ ops)) s =
      ((((s.addLog (frameActs c (.cmd b))).addLog
          ((List.range j).flatMap fun r => bufferActs c m (base + r * stride) cols)).addLog
          (bufferActs c m (base + j * stride) k)).setDc
        (some (if j = 0 ∧ k = 0 then c.dcCmdLevel else c.dcCmdLevel.other))).setSeq
        (.sendMem (base + j * stride + k) :: left) := by
  subst hc hm
  obtain ⟨after, hsplit⟩ := rectAddrs_split base stride hj hk
  have hadm : ∀ a ∈ rectAddrs base stride j cols ++ rangeAddrs (base + j * stride) k, admits s.cfg a = true :=
    List.forall_mem_append.2 ⟨rectAddrs_admitted hrows, rangeAddrs_admitted hrow⟩
  refine ⟨after.map SeqOp.sendMem ++ ops, ?_⟩
  rw [hsplit, runOps_dataPhase_blocked b _ after _ ops s hadm hno, sendActs_append, sendActs_rectAddrs,
    sendActs_rangeAddrs, ← State.addLog_addLog]
  simp only [List.append_eq_nil_iff, rectAddrs_eq_nil _ _ _ _ (Nat.zero_lt_of_lt hk), rangeAddrs_eq_nil]

/-- A BLIT's window, pointer and wait, as long as the wait passes. -/
theorem runOps_blit_opens (base : Nat) (y : Int) (g : BlitGeom) (s : State) (hpass : WaitsPass s 1) :
    ∃ m w, WaitEnds s m w ∧ runOps (blitOps base y g) s =
      runOps (cmdOp 0x24 :: ((rectAddrs base g.stride g.rows g.cols).map SeqOp.sendMem ++ [.respond respDone]))
        ((((afterSamples m s).addLog (framesActs s.cfg (windowFrames g.x0 y g.xe g.ye))).addLog w).setDc
          (dcAfter s.cfg s.dcL (windowFrames g.x0 y g.xe g.ye))) := by
  obtain ⟨m, w, hends, hwait⟩ := runOps_wait
    (cmdOp 0x24 :: ((rectAddrs base g.stride g.rows g.cols).map SeqOp.sendMem ++ [.respond respDone]))
    ((s.addLog (framesActs s.cfg (windowFrames g.x0 y g.xe g.ye))).setDc
      (dcAfter s.cfg s.dcL (windowFrames g.x0 y g.xe g.ye)))
    (WaitsPass_congr s _ 1 rfl rfl rfl hpass)
  refine ⟨m, w, hends, ?_⟩
  rw [blitOps_eq, runOps_frames, hwait]
  rfl

/-- A BLIT's sequence up to the first byte that is not admitted, in row `j` at column `k`. -/
theorem runOps_blit_blocked (base j k : Nat) (y : Int) (g : BlitGeom) (s : State) (hj : j < g.rows)
    (hk : k < g.cols) (hrows : ∀ r, r < j → RangeAdmitted s.cfg (base + r * g.stride) g.cols)
    (hrow : RangeAdmitted s.cfg (base + j * g.stride) k)
    (hno : admits s.cfg (base + j * g.stride + k) = false) (hpass : WaitsPass s 1) :
    ∃ m w left, WaitEnds s m w ∧ runOps (blitOps base y g) s =
      (((((((afterSamples m s).addLog (framesActs s.cfg (windowFrames g.x0 y g.xe g.ye))).addLog w).addLog
          (frameActs s.cfg (.cmd 0x24))).addLog
          ((List.range j).flatMap fun r => bufferActs s.cfg s.mem (base + r * g.stride) g.cols)).addLog
          (bufferActs s.cfg s.mem (base + j * g.stride) k)).setDc
        (some (if j = 0 ∧ k = 0 then s.cfg.dcCmdLevel else s.cfg.dcCmdLevel.other))).setSeq
        (.sendMem (base + j * g.stride + k) :: left) := by
  obtain ⟨m, w, hends, hopen⟩ := runOps_blit_opens base y g s hpass
  obtain ⟨left, hdata⟩ := runOps_sendRect_blocked 0x24 base g.stride j k [.respond respDone]
    (c := s.cfg) (m := s.mem)
    ((((afterSamples m s).addLog (framesActs s.cfg (windowFrames g.x0 y g.xe g.ye))).addLog w).setDc
      (dcAfter s.cfg s.dcL (windowFrames g.x0 y g.xe g.ye))) (by simp) (by simp) hj hk hrows hrow hno
  exact ⟨m, w, left, hends, hopen.trans hdata⟩

/-- Settles O29: the BLIT sends the rectangle up to the byte, and stands before it. -/
theorem unadmittedByteSticksTheBlit : Obligations.UnadmittedByteSticksTheBlit := by
  intro a x y wd ht s x0 w0 xe ye stride rows cols j k hx hy hwd hht hx0 hw0 hxe hye hstride hrows hcols hj hk
    hadm hrow hno hpass
  obtain ⟨m, w, left, hends, hrun⟩ := runOps_blit_blocked a.toNat j k y.toInt
    ⟨x0, w0, xe, ye, stride, rows, cols⟩ (markMisuse s) hj hk hadm hrow hno
    (WaitsPass_congr s _ 1 rfl rfl rfl hpass)
  simp only [markMisuse_cfg, markMisuse_mem] at hrun
  rw [exec_blit_runs a x y wd ht s hx hy hwd hht, blitGeom_eq hx0 hw0 hxe hye hstride hrows hcols, hrun]
  refine ⟨m, w, _, WaitEnds_congr s (markMisuse s) m w rfl rfl rfl hends, rfl,
    stuckAt_setSeq rfl (by simpa using hno), step_setSeq_faults rfl (by simpa using hno), ?_⟩
  simp only [State.setSeq, State.setDc, State.addLog, afterSamples, markMisuse, State.setMisuse, misuseAfter,
    windowFrames]

/-! Pixels. -/

/-- A row is a whole number of bytes (R7). -/
theorem configOk_width {c : Config} (h : configOk c = true) : c.width % 8 = 0 := by
  obtain ⟨-, -, hw, -⟩ := (Scope.brokenConfigurationRefusesAll c).1.1 h
  exact hw

theorem pixelIndex_natCast (c : Config) (x y : Nat) : pixelIndex c x y = (x + y * c.width) / 8 := by
  unfold pixelIndex
  omega

/-- The two formulas of R52 agree because a row is a whole number of bytes. -/
theorem pixelIndex_eq_row {c : Config} (x y : Nat) (hw : c.width % 8 = 0) :
    pixelIndex c x y = y * (c.width / 8) + x / 8 := by
  obtain ⟨wb, hwb⟩ := Nat.dvd_of_mod_eq_zero hw
  calc pixelIndex c x y = (x + y * c.width) / 8 := pixelIndex_natCast c x y
    _ = (x + 8 * (y * wb)) / 8 := by rw [hwb, Nat.mul_left_comm]
    _ = x / 8 + y * wb := Nat.add_mul_div_left x (y * wb) (by decide)
    _ = y * (c.width / 8) + x / 8 := by rw [hwb, Nat.mul_div_cancel_left wb (by decide), Nat.add_comm]

/-- A place in a grid is below the grid's size. -/
theorem place_lt {y h q wb : Nat} (hy : y < h) (hq : q < wb) : y * wb + q < wb * h := by
  calc y * wb + q < y * wb + wb := Nat.add_lt_add_left hq _
    _ = (y + 1) * wb := (Nat.succ_mul y wb).symm
    _ ≤ h * wb := Nat.mul_le_mul_right wb hy
    _ = wb * h := Nat.mul_comm h wb

/-- The byte 0x80 shifted right by less than its length has one bit set. -/
theorem getLsbD_shifted_top : ∀ r < 8, ∀ k < 8, ((0x80 : Byte) >>> r).getLsbD k = decide (k = 7 - r) := by
  decide

theorem pixelMask_natCast (x : Nat) : pixelMask x = (0x80 : Byte) >>> (x % 8) := by
  unfold pixelMask
  rw [show ((x : Int) % 8).toNat = x % 8 by omega]

/-- Settles O41, by the row of the pixel and its place in the row. -/
theorem pixelLiesInItsRow : Obligations.PixelLiesInItsRow := by
  intro c x y hok hx hy
  have hw := configOk_width hok
  have hrow := pixelIndex_eq_row x y hw
  refine ⟨pixelIndex_natCast c x y, hrow, ?inside, ?mask⟩
  case inside =>
    rw [hrow]
    exact place_lt hy (by omega)
  case mask =>
    rw [pixelMask_natCast]
    exact getLsbD_shifted_top (x % 8) (Nat.mod_lt x (by decide))

/-- PLOT's address is the one of R52. -/
theorem base_add_pixelIndex {c : Config} (base : Nat) {x y : Int} (hw : c.width % 8 = 0) (hx : 0 ≤ x) (hy : 0 ≤ y) :
    base + pixelIndex c x y = pixelAddr c base x y := by
  lift x to Nat using hx
  lift y to Nat using hy
  rw [pixelIndex_eq_row x y hw]
  rfl

/-- PLOT of a native point whose byte is not admitted stands before it (R164, R225). -/
theorem runOps_plot_blocked (base : Nat) (x y : Int) (col : Bool) (ops : List SeqOp) (s : State)
    (hw : s.cfg.width % 8 = 0) (hx : 0 ≤ x) (hxw : x < s.cfg.width) (hy : 0 ≤ y) (hyh : y < s.cfg.height)
    (hno : admits s.cfg (pixelAddr s.cfg base x y) = false) :
    runOps (plotOps s.cfg base x y col ++ ops) s =
      s.setSeq (.plot (pixelAddr s.cfg base x y) (pixelMask x) col :: ops) := by
  have hin : inNative s.cfg x y = true := by simp [inNative, hx, hxw, hy, hyh]
  rw [plotOps, if_pos hin, base_add_pixelIndex base hw hx hy]
  exact runOps_blocked _ _ ops s rfl hno

/-- A pixel request at a point inside its bounds is PLOT at the native point (R161, R162). -/
theorem exec_pixel_plots (a x y : Word) (col : Bool) (s : State) (i : Instr) (px py : Int)
    (h : i = .fbsetabs (some a) x y col ∧ px = x.toInt ∧ py = y.toInt ∨
      i = .fbsetpix (some a) x y col ∧ inLogical s x.toInt y.toInt = true ∧
        (px, py) = mapPoint s.cfg s.rot x.toInt y.toInt) :
    exec i s = .next (runOps (plotOps s.cfg a.toNat px py col ++ [.respond respDone]) s) := by
  rcases h with ⟨rfl, rfl, rfl⟩ | ⟨rfl, hin, hmap⟩
  · rfl
  · obtain ⟨rfl, rfl⟩ := Prod.ext_iff.1 hmap
    exact congrArg Host.Outcome.next (if_pos hin)

/-- Settles O38: both requests are the PLOT of a native point, which stands before its byte. -/
theorem unadmittedPixelSticks : Obligations.UnadmittedPixelSticks := by
  intro a x y col s i px py hok hi hx hxw hy hyh hno
  rw [exec_pixel_plots a x y col s i px py hi,
    runOps_plot_blocked a.toNat px py col _ s (configOk_width hok) hx hxw hy hyh hno]
  exact ⟨_, rfl, rfl, stuckAt_setSeq rfl hno, step_setSeq_faults rfl hno⟩

end Sys2Proof.MemoryFamily
end

section
/-! PROOFS of the family 30_encoding.md: decoder and encoder agree in both directions (R71 to R77), the checks of R75, what
a step runs of what it decodes (R234, R139), and the frames the link carries (R70, R130). -/

namespace Sys2Proof.EncodingFamily

open Sys2Proof Machine Safety

/-! Opcodes as bytes and as numbers (R74). -/

/-- The value of `OPC` for each opcode (R74): what `opcodeOf` reads, the other way round. -/
def opcodeByte : Opcode → Byte
  | .init => 0x01
  | .wrfull => 0x02
  | .wrbase => 0x03
  | .wrwhite => 0x04
  | .wrpart => 0x05
  | .blit => 0x06
  | .sleep => 0x07
  | .fbclear => 0x10
  | .fbsetpix => 0x11
  | .fbsetabs => 0x12
  | .setrot => 0x13
  | .rddim => 0x14

theorem opcodeOf_opcodeByte (op : Opcode) : opcodeOf (opcodeByte op) = some op := by
  cases op <;> rfl

theorem eq_opcodeByte_of_opcodeOf {b : Byte} {op : Opcode} (h : opcodeOf b = some op) : b = opcodeByte op := by
  unfold opcodeOf at h
  split at h
  case h_13 => exact absurd h (by simp)
  all_goals
    rename_i hb
    obtain rfl := Option.some.inj h
    exact byte_of_toNat b _ hb

/-- The opcode of an assigned request, with its number. -/
theorem opcode_of_assigned {r : Request} (h : OpcodeAssigned r) :
    ∃ op, opcodeOf (fieldOpc r) = some op ∧ r.w0.toNat % 256 = (opcodeByte op).toNat := by
  have hall : ∀ n ∈ [1, 2, 3, 4, 5, 6, 7, 16, 17, 18, 19, 20], (opcodeOf (BitVec.ofNat 8 n)).isSome = true := by
    decide
  have hsome := hall _ h
  rw [← byte_of_toNat _ _ (fieldOpc_toNat r), Option.isSome_iff_exists] at hsome
  obtain ⟨op, hop⟩ := hsome
  exact ⟨op, hop, by rw [← fieldOpc_toNat, eq_opcodeByte_of_opcodeOf hop]⟩

theorem opcodeOf_of_unassigned {r : Request} (h : ¬ OpcodeAssigned r) : opcodeOf (fieldOpc r) = none := by
  cases hop : opcodeOf (fieldOpc r) with
  | none => rfl
  | some op =>
    refine absurd ?_ h
    rw [OpcodeAssigned, ← fieldOpc_toNat, eq_opcodeByte_of_opcodeOf hop]
    cases op <;> decide

section
variable (op : Opcode)

/-! R72's table, row by row, by the numbers of R74. -/

theorem usesBuf_iff : usesBuf (formatOf op) = true ↔ (opcodeByte op).toNat ∈ [2, 3, 5, 6, 16, 17, 18] := by
  cases op <;> decide

theorem usesCol_iff : usesCol (formatOf op) = true ↔ (opcodeByte op).toNat ∈ [16, 17, 18] := by
  cases op <;> decide

theorem usesXY_iff : usesXY (formatOf op) = true ↔ (opcodeByte op).toNat ∈ [6, 17, 18] := by
  cases op <;> decide

theorem formatOf_fmtM_iff : formatOf op = .fmtM ↔ (opcodeByte op).toNat = 1 := by cases op <;> decide

theorem formatOf_fmtR_iff : formatOf op = .fmtR ↔ (opcodeByte op).toNat = 19 := by cases op <;> decide

theorem formatOf_fmtBL_iff : formatOf op = .fmtBL ↔ (opcodeByte op).toNat = 6 := by cases op <;> decide

end

/-! The checks of R75. -/

/-- The request fits its opcode's format: no check of R75 after the opcode fails. -/
structure Passes (c : Config) (op : Opcode) (r : Request) : Prop where
  reserved : fieldReserved r = 0
  unused : unusedNonzero (formatOf op) r = false
  null : usesBuf (formatOf op) = true → fieldBv r = false → r.w1 = 0
  fits : usesBuf (formatOf op) = true → fieldBv r = true → r.w1.toNat < 2 ^ c.addrBits

/-- The third check passes when every field the format does not use is 0 (R72). -/
theorem unusedNonzero_eq_false_iff (f : Format) (r : Request) :
    unusedNonzero f r = false ↔
      (usesBuf f = false → fieldBv r = false ∧ r.w1 = 0) ∧ (usesCol f = false → fieldCol r = false) ∧
      (f ≠ .fmtM → fieldMode r = false) ∧ (f ≠ .fmtR → fieldRot r = 0) ∧
      (usesXY f = false → r.w2 = 0 ∧ r.w3 = 0) ∧ (f ≠ .fmtBL → r.w4 = 0 ∧ r.w5 = 0) := by
  simp only [unusedNonzero, Bool.or_eq_false_iff, Bool.and_eq_false_imp, Bool.not_eq_true',
    decide_eq_true_eq, decide_eq_false_iff_not, not_not, and_assoc]

/-- The third check by numbers, for the opcode the request names. -/
theorem unusedNonzero_iff {r : Request} {op : Opcode} (hnum : r.w0.toNat % 256 = (opcodeByte op).toNat) :
    unusedNonzero (formatOf op) r = true ↔ UnusedFieldSet r := by
  have bit : ∀ n : Nat, n % 2 = 1 ↔ n % 2 ≠ 0 := fun n => by omega
  simp only [unusedNonzero, UnusedFieldSet, hnum, Bool.or_eq_true, Bool.and_eq_true, Bool.not_eq_true',
    ← Bool.not_eq_true, decide_eq_true_eq, usesBuf_iff, usesCol_iff, usesXY_iff, formatOf_fmtM_iff,
    formatOf_fmtR_iff, formatOf_fmtBL_iff, fieldBv_eq, fieldCol_eq, fieldMode_eq, fieldRot_ne, word_ne, bit,
    or_assoc, ne_eq]

theorem decodeFields_ok_iff (c : Config) (op : Opcode) (r : Request) (i : Instr) :
    decodeFields c op r = .ok i ↔ Passes c op r ∧ assemble op r = i := by
  constructor
  · intro h
    unfold decodeFields at h
    split at h
    · exact absurd h (by simp)
    split at h
    · exact absurd h (by simp)
    split at h
    · exact absurd h (by simp)
    split at h
    · exact absurd h (by simp)
    rename_i hres hunused hnull hwide
    refine ⟨⟨not_not.1 hres, by simpa using hunused, fun hb hv => ?_, fun hb hv => ?_⟩, Except.ok.inj h⟩
    · exact by_contra fun h0 => hnull ⟨hb, hv, h0⟩
    · exact Nat.lt_of_not_le fun hle => hwide ⟨hb, hv, hle⟩
  · rintro ⟨⟨hres, hunused, hnull, hfits⟩, rfl⟩
    unfold decodeFields
    rw [if_neg (not_not.2 hres), if_neg (by simp [hunused]), if_neg fun ⟨hb, hv, h0⟩ => h0 (hnull hb hv),
      if_neg fun ⟨hb, hv, hle⟩ => absurd (hfits hb hv) (Nat.not_lt.2 hle)]

theorem decodeRequest_unassigned {c : Config} {r : Request} (hc : configOk c = true)
    (h : opcodeOf (fieldOpc r) = none) : decodeRequest c r = .error .unassignedOpcode := by
  unfold decodeRequest
  rw [if_neg (by simp [hc]), h]

theorem decodeRequest_assigned {c : Config} {r : Request} {op : Opcode} (hc : configOk c = true)
    (h : opcodeOf (fieldOpc r) = some op) : decodeRequest c r = decodeFields c op r := by
  unfold decodeRequest
  rw [if_neg (by simp [hc]), h]

/-- What an accepted request is: one with an assigned opcode that passes the checks and is assembled (R73, R75). -/
theorem decodeRequest_ok {c : Config} {r : Request} {i : Instr} (h : decodeRequest c r = .ok i) :
    ∃ op, fieldOpc r = opcodeByte op ∧ Passes c op r ∧ assemble op r = i := by
  have hc : configOk c = true := by
    by_contra hc
    rw [Scope.decodeRequest_of_broken c r (by simpa using hc)] at h
    exact absurd h (by simp)
  cases hop : opcodeOf (fieldOpc r) with
  | none =>
    rw [decodeRequest_unassigned hc hop] at h
    exact absurd h (by simp)
  | some op =>
    rw [decodeRequest_assigned hc hop] at h
    exact ⟨op, eq_opcodeByte_of_opcodeOf hop, (decodeFields_ok_iff c op r i).1 h⟩

/-! Operands: what the decoder reads from a request and what the encoder writes into one (R71, R73). -/

/-- The operands of R73, whatever the opcode. -/
structure Operands where
  buf : Buf := none
  col : Bool := false
  mode : Bool := false
  rot : BitVec 2 := 0
  x : Word := 0
  y : Word := 0
  wd : Word := 0
  ht : Word := 0

/-- The operands a request carries (R73). -/
def operandsOf (r : Request) : Operands :=
  ⟨operandBuf r, fieldCol r, fieldMode r, fieldRot r, r.w2, r.w3, r.w4, r.w5⟩

/-- The request of an opcode that carries the operands, in R71's places. -/
def requestOf (op : Opcode) (o : Operands) : Request :=
  ⟨packW0 (opcodeByte op) o.buf.isSome o.col o.mode o.rot, packBuf o.buf, o.x, o.y, o.wd, o.ht⟩

/-- The operands an opcode's format uses, the others at 0 (R72). -/
def usedOperands (op : Opcode) (o : Operands) : Operands where
  buf := if usesBuf (formatOf op) = true then o.buf else none
  col := usesCol (formatOf op) && o.col
  mode := decide (formatOf op = .fmtM) && o.mode
  rot := if formatOf op = .fmtR then o.rot else 0
  x := if usesXY (formatOf op) = true then o.x else 0
  y := if usesXY (formatOf op) = true then o.y else 0
  wd := if formatOf op = .fmtBL then o.wd else 0
  ht := if formatOf op = .fmtBL then o.ht else 0

/-- The instruction of an opcode with its operands. -/
def instrOf (op : Opcode) (o : Operands) : Instr :=
  match op with
  | .init => .init (if o.mode then .highDir else .lowDir)
  | .wrfull => .wrfull o.buf
  | .wrbase => .wrbase o.buf
  | .wrwhite => .wrwhite
  | .wrpart => .wrpart o.buf
  | .blit => .blit o.buf o.x o.y o.wd o.ht
  | .sleep => .sleep
  | .fbclear => .fbclear o.buf o.col
  | .fbsetpix => .fbsetpix o.buf o.x o.y o.col
  | .fbsetabs => .fbsetabs o.buf o.x o.y o.col
  | .setrot => .setrot o.rot
  | .rddim => .rddim

section
variable (op : Opcode) (o : Operands)

/-- R73's assembly reads the operands and nothing else. -/
theorem assemble_eq (r : Request) : assemble op r = instrOf op (operandsOf r) := by
  cases op <;> rfl

/-- The operands an opcode does not use have no part in its instruction. -/
theorem instrOf_usedOperands : instrOf op (usedOperands op o) = instrOf op o := by
  cases op <;> rfl

/-- The encoder writes the operands the format uses and 0 elsewhere (R71, R72). -/
theorem encode_instrOf : encode (instrOf op o) = .request (requestOf op (usedOperands op o)) := by
  cases op with
  | init => cases hm : o.mode <;> simp [instrOf, encode, requestOf, usedOperands, formatOf, usesBuf, usesCol, usesXY,
      opcodeByte, packBuf, hm]
  | _ => rfl

theorem exists_instrOf (i : Instr) (hi : i.isRequest = true) : ∃ op o, instrOf op o = i := by
  cases i with
  | init mode =>
    cases mode with
    | highDir => exact ⟨.init, { mode := true }, rfl⟩
    | lowDir => exact ⟨.init, {}, rfl⟩
  | wrfull buf => exact ⟨.wrfull, { buf }, rfl⟩
  | wrbase buf => exact ⟨.wrbase, { buf }, rfl⟩
  | wrwhite => exact ⟨.wrwhite, {}, rfl⟩
  | wrpart buf => exact ⟨.wrpart, { buf }, rfl⟩
  | blit buf x y wd ht => exact ⟨.blit, { buf, x, y, wd, ht }, rfl⟩
  | sleep => exact ⟨.sleep, {}, rfl⟩
  | fbclear buf col => exact ⟨.fbclear, { buf, col }, rfl⟩
  | fbsetpix buf x y col => exact ⟨.fbsetpix, { buf, x, y, col }, rfl⟩
  | fbsetabs buf x y col => exact ⟨.fbsetabs, { buf, x, y, col }, rfl⟩
  | setrot rot => exact ⟨.setrot, { rot }, rfl⟩
  | rddim => exact ⟨.rddim, {}, rfl⟩
  | _ => exact absurd hi (by simp [Instr.isRequest])

/-- A request is well-formed when the buffer its format uses fits the address width (R71). -/
theorem wf_instrOf (c : Config) :
    (instrOf op o).wf c = true ↔ (usesBuf (formatOf op) = true → bufFits c o.buf = true) := by
  cases op <;> simp [instrOf, Instr.wf, formatOf, usesBuf]

theorem fieldOpc_requestOf : fieldOpc (requestOf op o) = opcodeByte op := fieldOpc_packW0 _ _ _ _ _ _ _ _ _ _

/-- What is written is what is read. -/
theorem operandsOf_requestOf : operandsOf (requestOf op o) = o := by
  rcases o with ⟨_ | a, col, mode, rot, x, y, wd, ht⟩ <;> simp [operandsOf, requestOf, operandBuf, packBuf]

/-- The encoder's words pass the checks of R75 when the buffer fits. -/
theorem passes_requestOf (c : Config) (hfit : usesBuf (formatOf op) = true → bufFits c o.buf = true) :
    Passes c op (requestOf op (usedOperands op o)) where
  reserved := fieldReserved_packW0 _ _ _ _ _ _ _ _ _ _
  unused := by
    rw [unusedNonzero_eq_false_iff]
    simp +contextual [requestOf, usedOperands, packBuf]
  null := fun hb hv => by
    rw [requestOf, fieldBv_packW0, Option.isSome_eq_false_iff, Option.isNone_iff_eq_none] at hv
    simp [requestOf, hv, packBuf]
  fits := fun hb hv => by
    rw [requestOf, fieldBv_packW0, Option.isSome_iff_exists] at hv
    obtain ⟨a, ha⟩ := hv
    have hbuf : o.buf = some a := by simpa [usedOperands, hb] using ha
    have hlt := hfit hb
    rw [hbuf] at hlt
    simpa [requestOf, ha, packBuf, bufFits] using hlt

/-- A request that passes the checks carries no operand its format does not use. -/
theorem usedOperands_operandsOf {c : Config} {r : Request} (h : Passes c op r) :
    usedOperands op (operandsOf r) = operandsOf r := by
  obtain ⟨hbuf, hcol, hmode, hrot, hxy, hsize⟩ := (unusedNonzero_eq_false_iff _ _).1 h.unused
  have hnone : usesBuf (formatOf op) = false → operandBuf r = none := fun hb => by simp [operandBuf, hbuf hb]
  simp only [usedOperands, operandsOf, Operands.mk.injEq, ite_eq_left_iff, Bool.and_eq_right_iff_imp,
    Bool.not_eq_true, decide_eq_true_eq]
  exact ⟨fun hb => (hnone hb).symm, fun hc => by_contra fun hu => by simp [hcol (by simpa using hu)] at hc,
    fun hm => by_contra fun hu => by simp [hmode hu] at hm, fun hu => (hrot hu).symm,
    fun hu => (hxy hu).1.symm, fun hu => (hxy hu).2.symm, fun hu => (hsize hu).1.symm,
    fun hu => (hsize hu).2.symm⟩

/-- A request that passes the checks is what the encoder writes of its operands: no bit is left out. -/
theorem requestOf_operandsOf {c : Config} {r : Request} (hopc : fieldOpc r = opcodeByte op)
    (h : Passes c op r) : requestOf op (operandsOf r) = r := by
  have hlow : r.w0.toNat < 2 ^ 13 := Nat.lt_of_not_le fun hle => (fieldReserved_ne r).2 hle h.reserved
  have hsome : (operandBuf r).isSome = fieldBv r := by cases hv : fieldBv r <;> simp [operandBuf, hv]
  have haddr : packBuf (operandBuf r) = r.w1 := by
    cases hv : fieldBv r with
    | true => simp [operandBuf, hv, packBuf]
    | false =>
      have hzero : r.w1 = 0 := by
        cases hb : usesBuf (formatOf op) with
        | true => exact h.null hb hv
        | false => exact (((unusedNonzero_eq_false_iff _ _).1 h.unused).1 hb).2
      simp [operandBuf, hv, packBuf, hzero]
  have hw0 := packW0_fields r hlow
  rw [hopc] at hw0
  simp only [requestOf, operandsOf, hsome, haddr, hw0]

end

/-! Decode of encode, and encode of decode. -/

/-- A frame is read back from its nine bits (R76). -/
theorem encode_of_decodeFrame {f : Frame} {i : Instr} (h : decodeFrame f = .ok i) :
    encode i = .frame (frameCode f) := by
  cases f with
  | dat b => rw [← Except.ok.inj h]; rfl
  | cmd b =>
    simp only [decodeFrame, decodeCommand] at h
    split at h
    case h_14 => exact absurd h (by simp)
    all_goals
      rename_i hb
      rw [← Except.ok.inj h, byte_of_toNat b _ hb]
      rfl

theorem decodeFrame_isRequest {f : Frame} {i : Instr} (h : decodeFrame f = .ok i) : i.isRequest = false := by
  by_contra hi
  obtain ⟨op, o, rfl⟩ := exists_instrOf i (by simpa using hi)
  have henc := encode_of_decodeFrame h
  rw [encode_instrOf] at henc
  exact absurd henc (by simp)

theorem exists_decodeFrame (i : Instr) (hi : i.isRequest = false) : ∃ f, decodeFrame f = .ok i :=
  (exec_wireFrame i State.reset hi).imp fun _ h => h.2

theorem wf_of_frame (c : Config) (i : Instr) (hi : i.isRequest = false) : i.wf c = true := by
  cases i <;> simp [Instr.isRequest, Instr.wf] at hi ⊢

/-- Settles O2: the encoder writes the operands an instruction has where the decoder reads them. -/
theorem decodeOfEncode : Obligations.DecodeOfEncode := by
  intro c i hc hwf
  cases hi : i.isRequest with
  | true =>
    obtain ⟨op, o, rfl⟩ := exists_instrOf i hi
    have hpass := passes_requestOf op o c ((wf_instrOf op o c).1 hwf)
    calc decode c (encode (instrOf op o))
        = decodeRequest c (requestOf op (usedOperands op o)) := by rw [encode_instrOf, decode]
      _ = decodeFields c op (requestOf op (usedOperands op o)) :=
        decodeRequest_assigned hc (by rw [fieldOpc_requestOf, opcodeOf_opcodeByte])
      _ = .ok (assemble op (requestOf op (usedOperands op o))) :=
        (decodeFields_ok_iff c op _ _).2 ⟨hpass, rfl⟩
      _ = .ok (instrOf op o) := by rw [assemble_eq, operandsOf_requestOf, instrOf_usedOperands]
  | false =>
    obtain ⟨f, hdec⟩ := exists_decodeFrame i hi
    rw [encode_of_decodeFrame hdec, decode, frameOfCode_frameCode, hdec]

/-- An accepted request is the encoding of its instruction, which is well-formed (R71 to R75). -/
theorem encode_of_decodeRequest {c : Config} {r : Request} {i : Instr} (h : decodeRequest c r = .ok i) :
    encode i = .request r ∧ i.wf c = true := by
  obtain ⟨op, hopc, hpass, rfl⟩ := decodeRequest_ok h
  rw [assemble_eq]
  refine ⟨by rw [encode_instrOf, usedOperands_operandsOf op hpass, requestOf_operandsOf op hopc hpass],
    (wf_instrOf _ _ c).2 fun hb => ?_⟩
  cases hv : fieldBv r with
  | false => simp [operandsOf, operandBuf, hv, bufFits]
  | true => simp [operandsOf, operandBuf, hv, bufFits, hpass.fits hb hv]

/-- Settles O3: a request that passes R75's checks has nothing outside the operands, and a frame is its nine bits. -/
theorem encodeOfDecode : Obligations.EncodeOfDecode := by
  intro c e i h
  cases e with
  | request r => exact encode_of_decodeRequest h
  | frame code =>
    have hdec : decodeFrame (frameOfCode code) = .ok i := h
    refine ⟨?_, wf_of_frame c i (decodeFrame_isRequest hdec)⟩
    rw [encode_of_decodeFrame hdec, frameCode_frameOfCode]

/-- Settles O4: each check by its numbers, the later ones when the earlier pass. -/
theorem requestChecksInOrder : Obligations.RequestChecksInOrder := by
  intro c r hc
  by_cases hassigned : OpcodeAssigned r
  case neg =>
    exact ⟨fun _ => decodeRequest_unassigned hc (opcodeOf_of_unassigned hassigned), fun h => absurd h hassigned,
      fun h => absurd h hassigned, fun h => absurd h hassigned, fun h => absurd h hassigned,
      fun h => absurd h hassigned⟩
  obtain ⟨op, hop, hnum⟩ := opcode_of_assigned hassigned
  have hbuf : OpcodeTakesBuffer r ↔ usesBuf (formatOf op) = true := by
    rw [OpcodeTakesBuffer, hnum, usesBuf_iff]
  have hbv0 : r.w0.toNat / 256 % 2 = 0 ↔ fieldBv r = false := by rw [fieldBv_eq, decide_eq_false_iff_not]; omega
  have hbv1 : r.w0.toNat / 256 % 2 = 1 ↔ fieldBv r = true := by rw [fieldBv_eq, decide_eq_true_eq]
  rw [← Nat.not_le, ← fieldReserved_ne, ← word_ne, ← unusedNonzero_iff hnum, hbuf, hbv0, hbv1]
  have hdec := decodeRequest_assigned hc hop
  refine ⟨fun h => absurd hassigned h, fun _ hres => ?reserved, fun _ hres hunused => ?unused,
    fun _ hres hunused hb hv hw => ?null, fun _ hres hunused hb hv hle => ?wide,
    fun _ hres hunused hnull hwide => ?passes⟩
  case reserved => rw [hdec, decodeFields, if_pos hres]
  case unused => rw [hdec, decodeFields, if_neg hres, if_pos hunused]
  case null => rw [hdec, decodeFields, if_neg hres, if_neg hunused, if_pos ⟨hb, hv, hw⟩]
  case wide =>
    rw [hdec, decodeFields, if_neg hres, if_neg hunused, if_neg (by simp [hv]), if_pos ⟨hb, hv, hle⟩]
  case passes =>
    have hok : decodeRequest c r = .ok (assemble op r) := by
      rw [hdec, decodeFields, if_neg hres, if_neg hunused, if_neg hnull, if_neg hwide]
    exact ⟨_, hok, (encode_of_decodeRequest hok).1⟩

/-! What a step runs of what it decodes. -/

/-- Settles O7: an idle step takes the request off the port, and a decoded one is latched and run. -/
theorem stepRunsTheDecodedRequest : Obligations.StepRunsTheDecodedRequest := by
  intro s r rest i hseq hport hdec
  calc step s = fetchRequest s := step_idle s hseq
    _ = acceptRequest r (s.setPort rest) := fetchRequest_cons s r rest hport
    _ = exec i ((s.setPort rest).setLatched (some r)) := acceptRequest_ok r (s.setPort rest) i hdec

/-- A frame the decoder has no instruction for is a command. -/
theorem frameLevel_of_unlisted {f : Frame} {e : DecodeError} (c : Config) (h : decodeFrame f = .error e) :
    frameLevel c f = c.dcCmdLevel := by
  cases f with
  | cmd b => rfl
  | dat b => exact absurd h (by simp [decodeFrame])

/-- Settles O8: the sequencer takes the frame off and runs it; a frame without an instruction is emitted. -/
theorem stepRunsTheDecodedFrame : Obligations.StepRunsTheDecodedFrame := by
  intro s f rest hseq
  rw [step_frame s f rest hseq]
  refine ⟨fun i hdec => runFrame_ok f _ i hdec, fun e hdec => ?_⟩
  rw [runFrame_eq, sendFrame_eq, frameLevel_of_unlisted _ hdec]
  rfl

/-- What the opcode table's numbering reads is what the decoder reads (log 15). -/
theorem decode_of_decodeTableWord {nbits w : Nat} {i : Instr} (h : decodeTableWord nbits w = some i) :
    decode Config.ref (tableWord nbits w) = .ok i := by
  unfold decodeTableWord at h
  split at h
  case h_1 hdec => rw [hdec, Option.some.inj h]
  case h_2 => exact absurd h (by simp)

/-- Settles O14: a table word stands either at the head of the port, where O7 runs it, or at the head of the sequence. -/
theorem placedTableWordRunsNext : Obligations.PlacedTableWordRunsNext := by
  intro s nbits w i hcfg htable
  have hdec := decode_of_decodeTableWord htable
  unfold State.withFetchWord
  unfold tableWord at hdec ⊢
  split at hdec
  case isTrue hbits =>
    have hi := decodeFrame_isRequest hdec
    refine ⟨fun hreq => absurd hi (by simp [hreq]), fun _ => ?_⟩
    rw [if_pos hbits, placeEncoded, step_frame _ _ s.seq rfl]
    exact runFrame_ok _ s i hdec
  case isFalse hbits =>
    have hi := decodeRequest_isRequest _ _ _ hdec
    refine ⟨fun _ => ?_, fun hreq => absurd hi (by simp [hreq])⟩
    rw [if_neg hbits, placeEncoded]
    exact stepRunsTheDecodedRequest _ (requestOfNat w) s.port i rfl rfl (by rw [← hcfg] at hdec; exact hdec)

/-! The link. -/

/-- R77's table lists each command by the byte the decoder reads it from. -/
theorem decodeFrame_of_mem_commandTable : ∀ p ∈ commandTable, decodeFrame (.cmd p.2) = .ok p.1 := by decide

/-- Settles O18: to run a command frame is to emit it. -/
theorem commandFrameIsSent : Obligations.CommandFrameIsSent := by
  intro p hp s
  rw [exec_of_decodeFrame _ _ s (decodeFrame_of_mem_commandTable p hp), sendFrame_eq]
  rfl

/-- A sequence of allowed operations puts only allowed frames on the link, and leaves only such a sequence. -/
theorem runOps_link {s : State} {ops : List SeqOp} (h : ops.all (opAllowed s.cfg) = true) :
    seqAllowed (runOps ops s) = true ∧
      ∃ l, (runOps ops s).log = s.log ++ l ∧ framesOk (linkAllowed s.cfg) l = true := by
  obtain ⟨l, hl, hlink, -⟩ := performed_runOps ops s
  obtain ⟨hok, hleft⟩ := hlink h
  exact ⟨hleft, l, hl.log, hok⟩

/-- So does a request: its own operations are allowed, and its start puts nothing on the link. -/
theorem exec_link {i : Instr} {s t : State} (hi : i.isRequest = true) (h : exec i s = .next t) :
    seqAllowed t = true ∧ ∃ l, t.log = s.log ++ l ∧ framesOk (linkAllowed s.cfg) l = true := by
  obtain ⟨ops, r, u, he, hops, hstart⟩ := exec_request i s hi
  obtain rfl := Host.Outcome.next.inj (he.symm.trans h)
  obtain ⟨l, hl, hlok, -⟩ := hstart.performed
  have hall : (ops ++ [SeqOp.respond r]).all (opAllowed u.cfg) = true := by
    rw [List.all_append, hl.cfg, hops.allowed]
    rfl
  obtain ⟨hseq, m, hm, hmok⟩ := runOps_link hall
  rw [hl.cfg] at hmok
  exact ⟨hseq, l ++ m, by rw [hm, hl.log, List.append_assoc], framesOk_append _ l m hlok hmok⟩

/-- Settles O58, by the cases of what a step can do. -/
theorem linkCarriesOnlyAllowedFrames : Obligations.LinkCarriesOnlyAllowedFrames := by
  intro s t hs h
  have hall := (seqAllowed_eq s).symm.trans hs
  rcases step_cases s t h with ⟨-, -, rfl⟩ | ⟨r, rest, e, -, -, -, rfl⟩ | ⟨r, rest, i, -, -, hdec, he⟩ |
    ⟨f, rest, hseq, rfl⟩ | ⟨op, rest, hseq, -, rfl⟩
  case inl => exact ⟨hs, [], by simp, rfl⟩
  case inr.inl => exact ⟨hs, [], (List.append_nil _).symm, rfl⟩
  case inr.inr.inl =>
    exact exec_link (s := (s.setPort rest).setLatched (some r)) (decodeRequest_isRequest _ _ _ hdec) he
  case inr.inr.inr.inl =>
    rw [hseq, List.all_cons, Bool.and_eq_true] at hall
    obtain ⟨hf, hrest⟩ := hall
    refine ⟨(seqAllowed_eq _).trans hrest, frameActs s.cfg f, ?_, frameActs_ok _ _ hf⟩
    exact (performed_sendFrame f (s.setSeq rest)).log
  case inr.inr.inr.inr =>
    rw [hseq] at hall
    exact runOps_link hall

end Sys2Proof.EncodingFamily
end

section
/-! PROOFS of the family 41_protocol_ops.md: the seven protocol requests (R100 to R108), each a run of frames and bytes
with its waits, from its start to its end or to where an unbounded wait leaves it (R226). -/

namespace Sys2Proof.ProtocolFamily

open Sys2Proof Machine Safety MemoryFamily

/-! The data/command latch after the pieces of log these requests perform (R29). -/

theorem levelAfter_frameActs (c : Config) (cur : Option Level) (f : Frame) :
    levelAfter .dc cur (frameActs c f) = some (frameLevel c f) := by
  cases f <;> rfl

theorem levelAfter_framesActs (c : Config) (cur : Option Level) (fs : List Frame) :
    levelAfter .dc cur (framesActs c fs) = dcAfter c cur fs := by
  induction fs generalizing cur with
  | nil => rfl
  | cons f fs ih =>
    rw [framesActs, List.flatMap_cons, levelAfter_append, levelAfter_frameActs, dcAfter_cons]
    exact ih _

theorem levelAfter_sendActs (c : Config) (m : Memory) (cur : Option Level) (as : List Nat) :
    levelAfter .dc cur (sendActs c m as) = if as = [] then cur else some c.dcCmdLevel.other := by
  induction as generalizing cur with
  | nil => rfl
  | cons a as ih =>
    rw [sendActs, List.flatMap_cons, levelAfter_append, if_neg (List.cons_ne_nil a as)]
    exact (ih _).trans (ite_self _)

theorem levelAfter_busyPairs (p : OutPin) (c : Config) (cur : Option Level) (k : Nat) :
    levelAfter p cur (busyPairs c k) = cur := by
  induction k with
  | zero => rfl
  | succ k ih => rw [busyPairs_succ, levelAfter_append]; exact ih

/-- A wait drives no pin (R132). -/
theorem levelAfter_wait {s : State} {m : Nat} {w : List Act} (h : WaitEnds s m w) (p : OutPin) (cur : Option Level) :
    levelAfter p cur w = cur := by
  rcases h with ⟨k, -, -, -, -, rfl⟩ | ⟨-, -, rfl⟩
  · rw [levelAfter_append, levelAfter_busyPairs]; rfl
  · exact levelAfter_busyPairs p _ _ _

/-! Pieces of a sequence that are always performed whole. -/

/-- The state once `l`, which leaves memory and the reset pin alone, has been performed. -/
def perform (l : List Act) (s : State) : State := (s.addLog l).setDc (levelAfter .dc s.dcL l)

@[simp] theorem perform_cfg (l : List Act) (s : State) : (perform l s).cfg = s.cfg := rfl

@[simp] theorem answerAt_perform (l : List Act) (s : State) (j : Nat) :
    answerAt (perform l s) j = answerAt s j := rfl

theorem perform_append (l k : List Act) (s : State) : perform (l ++ k) s = perform k (perform l s) := by
  simp only [perform, State.setDc, State.addLog, levelAfter_append, List.append_assoc]

/-- A piece of log that ends with a wait leaves the latch where the wait found it. -/
theorem perform_wait {s : State} {m : Nat} {w : List Act} (h : WaitEnds s m w) (l : List Act) (t : State) :
    perform (l ++ w) t = (t.addLog (l ++ w)).setDc (levelAfter .dc t.dcL l) := by
  rw [perform, levelAfter_append, levelAfter_wait h]

/-- Under configuration `c` and memory `m` the operations are performed whole, wherever they stand in a request, and all
they do is `l`. -/
def Plays (c : Config) (m : Memory) (ops : List SeqOp) (l : List Act) : Prop :=
  ∀ (rest : List SeqOp) (s : State), s.cfg = c → s.mem = m → runOps (ops ++ rest) s = runOps rest (perform l s)

section
variable {c : Config} {m : Memory}

theorem Plays.append {ops ops' : List SeqOp} {l l' : List Act} (h : Plays c m ops l) (h' : Plays c m ops' l') :
    Plays c m (ops ++ ops') (l ++ l') := by
  intro rest s hc hm
  rw [List.append_assoc, h _ s hc hm, h' rest (perform l s) hc hm, perform_append]

theorem plays_nil : Plays c m [] [] := fun _ s _ _ => by
  simp [perform, levelAfter, State.addLog, State.setDc]

theorem plays_frames (fs : List Frame) : Plays c m (fs.map .frame) (framesActs c fs) := by
  rintro rest s rfl -
  rw [runOps_frames, perform, levelAfter_framesActs]

theorem plays_command (b : Byte) : Plays c m [cmdOp b] (frameActs c (.cmd b)) := by
  rintro rest s rfl -
  rw [perform, levelAfter_frameActs, ← sendFrame_eq]
  rfl

theorem plays_sendMems (as : List Nat) (h : ∀ a ∈ as, admits c a = true) :
    Plays c m (as.map .sendMem) (sendActs c m as) := by
  rintro rest s rfl rfl
  rw [runOps_sendMems as rest s h, perform, levelAfter_sendActs]

/-- A data phase of a buffer that is admitted or `NULL` (R101, R140). -/
theorem plays_dataPhase (b : Byte) (buf : Buf) (h : BufferAdmitted c buf) :
    Plays c m (dataPhaseOps c b buf) (bankActs c m b buf) := by
  cases buf with
  | none => exact plays_nil
  | some a =>
    have hbytes := plays_sendMems (m := m) _ (rangeAddrs_admitted (h a rfl))
    rw [sendActs_rangeAddrs] at hbytes
    rw [dataPhaseOps, sendBufferOps_eq]
    exact (plays_command b).append hbytes

/-- A white data phase (R103, R140). -/
theorem plays_sendWhite (b : Byte) : Plays c m (sendWhiteOps c b) (whiteActs c b) := by
  have hbytes := plays_frames (c := c) (m := m) (List.replicate (bufLen c) (.dat 0xFF))
  rw [List.map_replicate] at hbytes
  exact (plays_command b).append hbytes

/-- The data phase of a rectangle whose rows are admitted (R105, R107). -/
theorem plays_sendRect (b : Byte) {base stride rows cols : Nat}
    (h : ∀ j, j < rows → RangeAdmitted c (base + j * stride) cols) :
    Plays c m (cmdOp b :: (rectAddrs base stride rows cols).map .sendMem)
      (frameActs c (.cmd b) ++ sendActs c m (rectAddrs base stride rows cols)) :=
  (plays_command b).append (plays_sendMems _ (rectAddrs_admitted h))

end

/-! A piece of a sequence, and the wait after it. -/

section
variable {before : List SeqOp} {l : List Act} {s : State} (after : List SeqOp)

/-- A wait that passes ends, and the request goes on (R132). -/
theorem runOps_passes_wait (hplays : Plays s.cfg s.mem before l) (hpass : WaitsPass s 1) :
    ∃ m w, WaitEnds s m w ∧ runOps (before ++ .wait 0 :: after) s =
      runOps after (perform (l ++ w) (afterSamples m s)) := by
  obtain ⟨m, w, hends, hrun⟩ := runOps_wait after (perform l s) (WaitsPass_congr s _ 1 rfl rfl rfl hpass)
  refine ⟨m, w, WaitEnds_congr s (perform l s) m w rfl rfl rfl hends, ?_⟩
  rw [hplays _ s rfl rfl, hrun, perform_wait hends, ← State.addLog_addLog]
  rfl

/-- An unbounded wait on a busy panel leaves the request standing in it (R226). -/
theorem runOps_stands_in_wait (hplays : Plays s.cfg s.mem before l) (hn : s.cfg.busyMaxPolls = none)
    (hbusy : answerAt s 0 = s.cfg.busyActiveLevel) :
    runOps (before ++ .wait 0 :: after) s =
      { leftWaiting l after s with dcL := levelAfter .dc s.dcL l } := by
  rw [hplays _ s rfl rfl, runOps_wait_busy after (perform l s) hn hbusy]
  simp only [leftWaiting, List.append_nil]
  rfl

end

/-! The four writes: a data phase, then a refresh with its wait. -/

/-- The frames of a refresh, full or partial by the byte (R136, R137). -/
def refreshFrames (b : Byte) : List Frame := [.cmd 0x22, .dat b, .cmd 0x20]

theorem levelAfter_refresh (c : Config) (cur : Option Level) (l : List Act) (b : Byte) :
    levelAfter .dc cur (l ++ framesActs c (refreshFrames b)) = some c.dcCmdLevel := by
  rw [levelAfter_append]
  rfl

/-- The request marks MISUSE, performs `l`, and ends with the refresh of byte `b` and its response. -/
def RefreshesAfter (i : Instr) (s : State) (l : List Act) (b : Byte) : Prop :=
  ∃ ops, Plays s.cfg s.mem ops l ∧ exec i s =
    .next (runOps ((ops ++ (refreshFrames b).map .frame) ++ .wait 0 :: [.respond ⟨0, 0⟩]) (markMisuse s))

section
variable {i : Instr} {s : State} {buf : Buf} {l : List Act} {b : Byte}

theorem RefreshesAfter.of_exec {ops : List SeqOp} (hplays : Plays s.cfg s.mem ops l)
    (hexec : exec i s = .next (runOps (ops ++ ((refreshFrames b).map .frame ++ waitOps) ++ [.respond respDone])
      (markMisuse s))) : RefreshesAfter i s l b := by
  refine ⟨ops, hplays, ?_⟩
  rw [hexec, List.append_assoc, List.append_assoc, List.append_assoc]
  rfl

theorem wrfull_refreshes (h : BufferAdmitted s.cfg buf) :
    RefreshesAfter (.wrfull buf) s (bankActs s.cfg s.mem 0x24 buf) 0xF7 :=
  .of_exec (plays_dataPhase 0x24 buf h) rfl

theorem wrbase_refreshes (h : BufferAdmitted s.cfg buf) :
    RefreshesAfter (.wrbase buf) s (bankActs s.cfg s.mem 0x24 buf ++ bankActs s.cfg s.mem 0x26 buf) 0xF7 :=
  .of_exec ((plays_dataPhase 0x24 buf h).append (plays_dataPhase 0x26 buf h)) rfl

theorem wrwhite_refreshes : RefreshesAfter .wrwhite s (whiteActs s.cfg 0x24 ++ whiteActs s.cfg 0x26) 0xF7 :=
  .of_exec ((plays_sendWhite 0x24).append (plays_sendWhite 0x26)) rfl

theorem wrpart_refreshes (h : BufferAdmitted s.cfg buf) :
    RefreshesAfter (.wrpart buf) s (bankActs s.cfg s.mem 0x24 buf) 0xFF :=
  .of_exec (plays_dataPhase 0x24 buf h) rfl

/-- A write whose wait passes completes. -/
theorem RefreshesAfter.completes (h : RefreshesAfter i s l b) (hpass : WaitsPass s 1) :
    ∃ m w, WaitEnds s m w ∧ exec i s = .next { completed (l ++ framesActs s.cfg (refreshFrames b) ++ w) ⟨0, 0⟩
      (afterSamples m s) with misuse := misuseAfter s, dcL := some s.cfg.dcCmdLevel } := by
  obtain ⟨ops, hplays, hexec⟩ := h
  obtain ⟨m, w, hends, hrun⟩ := runOps_passes_wait (s := markMisuse s) [.respond ⟨0, 0⟩]
    (hplays.append (plays_frames (refreshFrames b))) (WaitsPass_congr s _ 1 rfl rfl rfl hpass)
  refine ⟨m, w, WaitEnds_congr s (markMisuse s) m w rfl rfl rfl hends, ?_⟩
  rw [hexec, hrun, perform_wait hends, levelAfter_refresh]
  rfl

/-- A write on a busy panel without a poll bound stands in the wait of its refresh. -/
theorem RefreshesAfter.waits (h : RefreshesAfter i s l b) (hn : s.cfg.busyMaxPolls = none)
    (hbusy : answerAt s 0 = s.cfg.busyActiveLevel) :
    exec i s = .next { leftWaiting (l ++ framesActs s.cfg (refreshFrames b)) [.respond ⟨0, 0⟩] s with
      misuse := misuseAfter s, dcL := some s.cfg.dcCmdLevel } := by
  obtain ⟨ops, hplays, hexec⟩ := h
  rw [hexec, runOps_stands_in_wait (s := markMisuse s) [.respond ⟨0, 0⟩]
    (hplays.append (plays_frames (refreshFrames b))) hn hbusy, levelAfter_refresh]
  rfl

end

/-- Settles O24: the buffer's data phase, then the refresh. -/
theorem wrfullPushesAndRefreshes : Obligations.WrfullPushesAndRefreshes :=
  fun _ _ hadm hpass => (wrfull_refreshes hadm).completes hpass

/-- Settles O25: two data phases of the buffer, then the refresh. -/
theorem wrbaseWritesBothBanks : Obligations.WrbaseWritesBothBanks :=
  fun _ _ hadm hpass => (wrbase_refreshes hadm).completes hpass

/-- Settles O26: two white data phases, then the refresh. -/
theorem wrwhiteWritesWhite : Obligations.WrwhiteWritesWhite :=
  fun _ hpass => wrwhite_refreshes.completes hpass

/-- Settles O27: the buffer's data phase, then the partial refresh. -/
theorem wrpartRefreshesPartially : Obligations.WrpartRefreshesPartially :=
  fun _ _ hadm hpass => (wrpart_refreshes hadm).completes hpass

/-! BLIT. -/

theorem levelAfter_window (c : Config) (cur : Option Level) (x0 y xe ye : Int) :
    levelAfter .dc cur (framesActs c (windowFrames x0 y xe ye)) = some c.dcCmdLevel.other := rfl

/-- A rectangle without rows or without columns has no address. -/
theorem rectAddrs_eq_nil_iff (base stride rows cols : Nat) :
    rectAddrs base stride rows cols = [] ↔ rows = 0 ∨ cols = 0 := by
  rcases Nat.eq_zero_or_pos cols with rfl | hcols
  · simp [rectAddrs, rangeAddrs]
  · rw [rectAddrs_eq_nil _ _ _ _ hcols, or_iff_left hcols.ne']

theorem levelAfter_sendRect (c : Config) (m : Memory) (cur : Option Level) (b : Byte) (base stride rows cols : Nat) :
    levelAfter .dc cur (frameActs c (.cmd b) ++ sendActs c m (rectAddrs base stride rows cols)) =
      some (if rows = 0 ∨ cols = 0 then c.dcCmdLevel else c.dcCmdLevel.other) := by
  rw [levelAfter_append, levelAfter_frameActs, levelAfter_sendActs, apply_ite some]
  simp only [rectAddrs_eq_nil_iff, frameLevel]

/-- A BLIT's sequence whose wait passes and whose rectangle is admitted, whole. -/
theorem runOps_blit_completes (base : Nat) (y : Int) (g : BlitGeom) (s : State)
    (hadm : ∀ j, j < g.rows → RangeAdmitted s.cfg (base + j * g.stride) g.cols) (hpass : WaitsPass s 1) :
    ∃ m w, WaitEnds s m w ∧ runOps (blitOps base y g) s =
      { completed (framesActs s.cfg (windowFrames g.x0 y g.xe g.ye) ++ w ++ (frameActs s.cfg (.cmd 0x24) ++
          sendActs s.cfg s.mem (rectAddrs base g.stride g.rows g.cols))) ⟨0, 0⟩ (afterSamples m s) with
        dcL := some (if g.rows = 0 ∨ g.cols = 0 then s.cfg.dcCmdLevel else s.cfg.dcCmdLevel.other) } := by
  obtain ⟨m, w, hends, hrun⟩ := runOps_passes_wait
    ((cmdOp 0x24 :: (rectAddrs base g.stride g.rows g.cols).map .sendMem) ++ [.respond respDone])
    (plays_frames (windowFrames g.x0 y g.xe g.ye)) hpass
  refine ⟨m, w, hends, ?_⟩
  rw [blitOps_eq, ← List.cons_append, hrun,
    plays_sendRect 0x24 hadm _ (perform _ (afterSamples m s)) rfl rfl, ← perform_append, perform, levelAfter_append,
    levelAfter_sendRect]
  rfl

/-- Settles O32: window, pointer and wait, then the rectangle's data phase. -/
theorem blitSendsTheRectangle : Obligations.BlitSendsTheRectangle := by
  intro a x y wd ht s x0 w0 xe ye stride rows cols hx hy hwd hht hx0 hw0 hxe hye hstride hrows hcols hadm hpass
  obtain ⟨m, w, hends, hrun⟩ := runOps_blit_completes a.toNat y.toInt ⟨x0, w0, xe, ye, stride, rows, cols⟩
    (markMisuse s) hadm (WaitsPass_congr s _ 1 rfl rfl rfl hpass)
  refine ⟨m, w, WaitEnds_congr s (markMisuse s) m w rfl rfl rfl hends, ?_⟩
  rw [exec_blit_runs a x y wd ht s hx hy hwd hht, blitGeom_eq hx0 hw0 hxe hye hstride hrows hcols, hrun,
    sendActs_rectAddrs, ← List.append_assoc]
  rfl

/-- Settles O30: the writes stand in the wait of their refresh, BLIT in the wait of its pointer. -/
theorem writesWaitWhileBusy : Obligations.WritesWaitWhileBusy := by
  intro s hn hbusy
  refine ⟨fun buf hadm => ?writes, ?blit⟩
  case writes =>
    simp only [List.forall_mem_cons, List.not_mem_nil, IsEmpty.forall_iff, implies_true, and_true]
    exact ⟨(wrfull_refreshes hadm).waits hn hbusy, (wrbase_refreshes hadm).waits hn hbusy,
      wrwhite_refreshes.waits hn hbusy, (wrpart_refreshes hadm).waits hn hbusy⟩
  case blit =>
    intro a x y wd ht x0 w0 xe ye stride rows cols hx hy hwd hht hx0 hw0 hxe hye hstride hrows hcols
    have hstands := runOps_stands_in_wait (s := markMisuse s)
      ([cmdOp 0x24] ++ blitDataOps a.toNat ⟨x0, w0, xe, ye, stride, rows, cols⟩ ++ [.respond respDone])
      (plays_frames (windowFrames x0 y.toInt xe ye)) hn hbusy
    rw [levelAfter_window] at hstands
    rw [exec_blit_runs a x y wd ht s hx hy hwd hht, blitGeom_eq hx0 hw0 hxe hye hstride hrows hcols]
    exact congrArg Host.Outcome.next hstands

/-! BLIT_GEOM. -/

theorem round8_emod (v : Int) : round8 v % 8 = 0 := by
  unfold round8
  omega

theorem round8_nonneg {v : Int} (h : 0 ≤ v) : 0 ≤ round8 v := by
  unfold round8
  omega

section
variable (c : Config) (x y wd ht : Int)

/-- The clamped width: what the rectangle has of the panel right of its origin (R106). -/
theorem blitGeom_width :
    (blitGeom c x y wd ht).xe - (blitGeom c x y wd ht).x0 + 1 = min (round8 wd) (c.width - round8 x) := by
  simp only [blitGeom]
  omega

/-- The clamped height: what the rectangle has of the panel below its origin (R106). -/
theorem blitGeom_height : (blitGeom c x y wd ht).ye - y + 1 = min ht (c.height - y) := by
  simp only [blitGeom]
  omega

theorem blitGeom_stride (hwd : 0 ≤ wd) : ((blitGeom c x y wd ht).stride : Int) = round8 wd / 8 := by
  have := round8_nonneg hwd
  simp only [blitGeom]
  omega

theorem blitGeom_rows : ((blitGeom c x y wd ht).rows : Int) = max 0 (min ht (c.height - y)) := by
  rw [← blitGeom_height c x y wd ht]
  exact Int.toNat_of_nonneg (le_max_left 0 _)

theorem blitGeom_cols :
    ((blitGeom c x y wd ht).cols : Int) = max 0 (min (round8 wd) (c.width - round8 x) / 8) := by
  rw [← blitGeom_width c x y wd ht]
  exact Int.toNat_of_nonneg (le_max_left 0 _)

end

/-- Settles O33, from the clamped width and height: the origin, the width and a row are whole bytes. -/
theorem blitGeometryClamps : Obligations.BlitGeometryClamps := by
  intro c x y wd ht g hok hx hy hwd hht hg
  subst hg
  have hrow := configOk_width hok
  have hx0 := round8_emod x
  have hw0 := round8_emod wd
  have hwidth := blitGeom_width c x y wd ht
  have hheight := blitGeom_height c x y wd ht
  have hstride := blitGeom_stride c x y wd ht hwd
  have hrows := blitGeom_rows c x y wd ht
  have hcols := blitGeom_cols c x y wd ht
  have horigin : (blitGeom c x y wd ht).x0 = round8 x := rfl
  have hunclamped : (blitGeom c x y wd ht).w0 = round8 wd := rfl
  refine ⟨horigin, hunclamped, rfl, rfl, hstride, by rw [hrows, hheight], by rw [hcols, hwidth], ?rows, ?cols,
    ?whole, ?le, ?lt, ?origin⟩
  case rows => omega
  case cols => omega
  case whole => omega
  case le => omega
  case lt => omega
  case origin =>
    rintro rfl
    rfl

/-! SLEEP. -/

/-- The frames of SLEEP (R108). -/
def sleepFrames (c : Config) : List Frame := [.cmd 0x10, .dat c.dsPayload]

theorem levelAfter_sleep (c : Config) (cur : Option Level) :
    levelAfter .dc cur (framesActs c (sleepFrames c)) = some c.dcCmdLevel.other := rfl

/-- What SLEEP does after its wait (R26, R108). -/
def sleepEnd : List SeqOp := [.rst .low, .life .sleeping, .respond ⟨0, 0⟩]

theorem runOps_sleepEnd (s : State) : runOps sleepEnd s =
    { completed [.ev (.setPin .rst .low)] ⟨0, 0⟩ s with rstL := some .low, life := .sleeping } := rfl

theorem exec_sleep_runs (s : State) : exec .sleep s =
    .next (runOps ((sleepFrames s.cfg).map .frame ++ .wait 0 :: sleepEnd) (markMisuse s)) := rfl

/-- Settles O34: the frames and their wait, then the end of the request. -/
theorem sleepRunsItsSequence : Obligations.SleepRunsItsSequence := by
  intro s hpass
  obtain ⟨m, w, hends, hrun⟩ := runOps_passes_wait (s := markMisuse s) sleepEnd (plays_frames (sleepFrames s.cfg))
    (WaitsPass_congr s _ 1 rfl rfl rfl hpass)
  refine ⟨m, w, WaitEnds_congr s (markMisuse s) m w rfl rfl rfl hends, ?_⟩
  rw [exec_sleep_runs, hrun, perform_wait hends, markMisuse_cfg, levelAfter_sleep, runOps_sleepEnd]
  simp only [completed, State.addLog, State.setDc, afterSamples, markMisuse, State.setMisuse, misuseAfter,
    sleepFrames, List.append_assoc]

/-- Settles O35: SLEEP stands in its wait. -/
theorem sleepWaitsWhileBusy : Obligations.SleepWaitsWhileBusy := by
  intro s hn hbusy
  have hstands := runOps_stands_in_wait (s := markMisuse s) sleepEnd (plays_frames (sleepFrames s.cfg)) hn hbusy
  rw [markMisuse_cfg, levelAfter_sleep] at hstands
  rw [exec_sleep_runs, hstands]
  rfl

/-! INIT. -/

/-- INIT brings up, then does what its result calls for (R100, R138). -/
theorem exec_init_eq (mode : InitMode) (s : State) :
    exec (.init mode) s = .next (runOps (initAfter s.cfg mode (upAnswer s))
      ((afterBringUp s).addLog [.ev (.bringUp (upAnswer s))])) := by
  rw [← bringUp_eq, ← upResult_eq]
  rfl

/-- Settles O21: the sequence after a failed bring-up is its response. -/
theorem initFailsOnBringUp : Obligations.InitFailsOnBringUp := by
  intro mode s hfail
  rw [exec_init_eq, hfail]
  rfl

theorem xb_natCast (n : Nat) : xb n = byteAt n 8 := BitVec.ofInt_natCast 8 (n / 8)

theorem lo8_natCast (n : Nat) : lo8 n = byteAt n 1 := by
  rw [byteAt, Nat.div_one]
  exact BitVec.ofInt_natCast 8 n

theorem hi8_natCast (n : Nat) : hi8 n = byteAt n 256 := BitVec.ofInt_natCast 8 (n / 256)

/-- The Y counter of INIT in the bytes of R142. -/
theorem yOrigin_bytes {c : Config} (hh : 1 ≤ c.height) (mode : InitMode) :
    [lo8 (yOrigin c mode), hi8 (yOrigin c mode)] = initYCounter c mode c.yWindowReading := by
  have hlast : (c.height : Int) - 1 = ((c.height - 1 : Nat) : Int) := by omega
  cases mode with
  | lowDir => rfl
  | highDir =>
    cases hy : c.yWindowReading with
    | msbFirst => simp only [yOrigin, hy]; rfl
    | highEndFirst => simp only [yOrigin, hy, hlast, lo8_natCast, hi8_natCast, initYCounter]

/-- INIT_WINDOW in the bytes of R141. -/
theorem initWindow_frames {c : Config} (hw : 1 ≤ c.width) (hh : 1 ≤ c.height) (mode : InitMode) :
    initWindowOps c mode = ([Frame.cmd 0x44, .dat 0x00, .dat (byteAt (c.width - 1) 8), .cmd 0x45] ++
      dats (initYWindow c mode c.yWindowReading)).map .frame := by
  have hright : (c.width : Int) - 1 = ((c.width - 1 : Nat) : Int) := by omega
  have hlast : (c.height : Int) - 1 = ((c.height - 1 : Nat) : Int) := by omega
  cases mode with
  | lowDir =>
    simp only [initWindowOps, setAreaOps, hright, hlast, xb_natCast, lo8_natCast, hi8_natCast, initYWindow]
    rfl
  | highDir =>
    cases hy : c.yWindowReading with
    | msbFirst =>
      simp only [initWindowOps, hy, hright, hlast, xb_natCast, lo8_natCast, hi8_natCast, initYWindow]
      rfl
    | highEndFirst =>
      simp only [initWindowOps, hy, setAreaOps, hright, hlast, xb_natCast, lo8_natCast, hi8_natCast, initYWindow]
      rfl

/-- The pointer of INIT in the bytes of R142. -/
theorem initPointer_frames {c : Config} (hh : 1 ≤ c.height) (mode : InitMode) :
    setPtrOps 0 (yOrigin c mode) = ([Frame.cmd 0x4E, .dat 0x00, .cmd 0x4F] ++
      dats (initYCounter c mode c.yWindowReading)).map .frame ++ [.wait 0] := by
  rw [← yOrigin_bytes hh]
  rfl

/-- INIT's last frame is a data frame. -/
theorem levelAfter_initFrames {c : Config} (hh : 1 ≤ c.height) (cur : Option Level) (mode : InitMode) :
    levelAfter .dc cur (framesActs c (initFrames c mode)) = some c.dcCmdLevel.other := by
  rw [levelAfter_framesActs, initFrames, dcAfter_append, ← yOrigin_bytes hh]
  rfl

theorem initDem_eq (c : Config) (mode : InitMode) : demByte c mode = initDem c mode := by
  cases mode <;> rfl

/-- What INIT does after its second wait (R26, R100). -/
def initEnd : List SeqOp := [.life .initialized, .respond ⟨0, 0⟩]

theorem runOps_initEnd (s : State) : runOps initEnd s =
    { completed [] ⟨0, 0⟩ s with life := .initialized } := by
  simp only [completed, List.append_nil]
  rfl

/-- INIT's sequence: the reset pulse, 0x12 and a wait, the frames and a wait, the end (R100). -/
theorem initOps_eq {c : Config} (hw : 1 ≤ c.width) (hh : 1 ≤ c.height) (mode : InitMode) :
    initOps c mode = hwResetOps c ++ ([Frame.cmd 0x12].map .frame ++
      .wait 0 :: ((initFrames c mode).map .frame ++ .wait 0 :: initEnd)) := by
  rw [initOps, initWindow_frames hw hh, initPointer_frames hh, initDem_eq]
  simp only [initFrames, sendBytesOps, emitFramesOps, dats, waitOps, initEnd, respDone, cmdOp, datOp, List.map_append,
    List.map_map, List.append_assoc]
  rfl

/-- Where INIT stands before 0x12: brought up and pulsed (R133, R138). -/
def initStart (s : State) : State :=
  ((afterBringUp s).addLog ([.ev (.bringUp .success)] ++ pulseActs s.cfg)).setRst (some .high)

@[simp] theorem initStart_cfg (s : State) : (initStart s).cfg = s.cfg := rfl

@[simp] theorem answerAt_initStart (s : State) (j : Nat) :
    answerAt (initStart s) j = answerAt (afterBringUp s) j := rfl

theorem configOk_size {c : Config} (h : configOk c = true) : 1 ≤ c.width ∧ 1 ≤ c.height := by
  obtain ⟨hw, -, -, hh, -⟩ := (Scope.brokenConfigurationRefusesAll c).1.1 h
  exact ⟨by omega, hh⟩

theorem exec_init_runs (mode : InitMode) {s : State} (hok : configOk s.cfg = true) (hup : upAnswer s = .success) :
    exec (.init mode) s = .next (runOps ([Frame.cmd 0x12].map .frame ++
      .wait 0 :: ((initFrames s.cfg mode).map .frame ++ .wait 0 :: initEnd)) (initStart s)) := by
  obtain ⟨hw, hh⟩ := configOk_size hok
  rw [exec_init_eq, hup, initAfter, initOps_eq hw hh, runOps_hwReset, State.addLog_addLog]
  rfl

theorem afterSamples_perform (m : Nat) (l : List Act) (s : State) :
    afterSamples m (perform l s) = perform l (afterSamples m s) := rfl

/-- INIT from 0x12 to its second wait, as long as the first wait passes. -/
theorem runOps_init_first_wait (mode : InitMode) {s : State} (hpass : WaitsPass (afterBringUp s) 1) :
    ∃ m w, WaitEnds (afterBringUp s) m w ∧
      runOps ([Frame.cmd 0x12].map .frame ++ .wait 0 :: ((initFrames s.cfg mode).map .frame ++ .wait 0 :: initEnd))
        (initStart s) =
      runOps ((initFrames s.cfg mode).map .frame ++ .wait 0 :: initEnd)
        (perform (frameActs s.cfg (.cmd 0x12) ++ w) (afterSamples m (initStart s))) := by
  obtain ⟨m, w, hends, hrun⟩ := runOps_passes_wait (s := initStart s)
    ((initFrames s.cfg mode).map .frame ++ .wait 0 :: initEnd) (plays_frames [.cmd 0x12])
    (WaitsPass_congr (afterBringUp s) _ 1 rfl rfl rfl hpass)
  exact ⟨m, w, WaitEnds_congr (afterBringUp s) (initStart s) m w rfl rfl rfl hends, hrun⟩

/-- Settles O22: 0x12 and the first wait, the frames and the second wait, then the end. -/
theorem initRunsItsSequence : Obligations.InitRunsItsSequence := by
  intro mode s hok hup hpass
  obtain ⟨m₁, w₁, hends₁, hrun₁⟩ := runOps_init_first_wait mode (WaitsPass_mono _ 1 2 (by omega) hpass)
  obtain ⟨m₂, w₂, hends₂, hrun₂⟩ := runOps_passes_wait
    (s := perform (frameActs s.cfg (.cmd 0x12) ++ w₁) (afterSamples m₁ (initStart s)))
    initEnd (plays_frames (initFrames s.cfg mode))
    (WaitsPass_congr (afterSamples m₁ (afterBringUp s)) _ 1 rfl rfl rfl (WaitsPass_next _ _ _ hpass hends₁))
  refine ⟨m₁, w₁, m₂, w₂, hends₁, WaitEnds_congr (afterSamples m₁ (afterBringUp s)) _ m₂ w₂ rfl rfl rfl hends₂, ?_⟩
  rw [exec_init_runs mode hok hup, hrun₁, hrun₂, afterSamples_perform, afterSamples_afterSamples, ← perform_append,
    ← List.append_assoc, perform_wait hends₂, runOps_initEnd]
  simp only [perform_cfg, afterSamples_cfg, initStart_cfg, levelAfter_append,
    levelAfter_initFrames (configOk_size hok).2]
  simp only [initStart, State.addLog, State.setDc, State.setRst, afterSamples, completed, List.append_assoc,
    List.append_nil]

/-- A wait whose first sample reads idle is that sample (R132). -/
theorem WaitEnds_of_idle {s : State} {m : Nat} {w : List Act} (h : WaitEnds s m w) (hn : s.cfg.busyMaxPolls = none)
    (hidle : answerAt s 0 ≠ s.cfg.busyActiveLevel) : m = 1 ∧ w = [.ev (.sample (answerAt s 0))] := by
  rcases h with ⟨k, -, hbusy, -, rfl, rfl⟩ | ⟨hbound, -, -⟩
  · obtain rfl : k = 0 := by
      by_contra hk
      exact hidle (hbusy 0 (Nat.pos_of_ne_zero hk))
    exact ⟨rfl, rfl⟩
  · rw [hn] at hbound
    exact absurd hbound (by simp)

/-- Settles O23: INIT stands in its first wait, or passes it by one idle sample and stands in its second. -/
theorem initWaitsWhileBusy : Obligations.InitWaitsWhileBusy := by
  intro mode s hok hup hn
  refine ⟨fun hbusy => ?first, fun hidle hbusy => ?second⟩
  case first =>
    have hstands := runOps_stands_in_wait (s := initStart s)
      ((initFrames s.cfg mode).map .frame ++ .wait 0 :: initEnd) (plays_frames [.cmd 0x12]) hn hbusy
    rw [exec_init_runs mode hok hup, hstands]
    simp only [leftWaiting, initStart, State.addLog, State.setRst, afterSamples, List.append_assoc]
    rfl
  case second =>
    obtain ⟨m, w, hends, hrun⟩ := runOps_init_first_wait mode (.inr fun j hj => by
      obtain rfl : j = 0 := by omega
      exact hidle)
    obtain ⟨rfl, rfl⟩ := WaitEnds_of_idle hends hn hidle
    have hstands := runOps_stands_in_wait
      (s := perform (frameActs s.cfg (.cmd 0x12) ++ [.ev (.sample (answerAt (afterBringUp s) 0))])
        (afterSamples 1 (initStart s)))
      initEnd (plays_frames (initFrames s.cfg mode)) hn (by simpa [answerAt_afterSamples] using hbusy)
    rw [exec_init_runs mode hok hup, hrun, hstands]
    simp only [perform_cfg, afterSamples_cfg, initStart_cfg, levelAfter_initFrames (configOk_size hok).2]
    simp only [leftWaiting, perform, initStart, State.addLog, State.setDc, State.setRst, afterSamples,
      List.append_assoc]
    rfl

end Sys2Proof.ProtocolFamily
end

section
/-! PROOFS of the family 42_protocol_primitives.md: the frames (R130, R131), the wait step by step (R132, R223, R226) and
INIT's window (R141). -/

namespace Sys2Proof.PrimitivesFamily

open Sys2Proof Machine Safety

/-! The wait. -/

section
variable {s : State} {i : Nat} {rest : List SeqOp}

/-- A wait accesses no memory, so a step that begins at one always goes on with the request (R225). -/
theorem step_wait (hseq : s.seq = .wait i :: rest) : step s = .next (runOps (.wait i :: rest) s) := by
  rw [step_resume s _ rest hseq (by simp)]
  exact resume_free _ rest s rfl

/-- A step whose unbounded wait samples idle ends the wait. -/
theorem step_wait_idle (hseq : s.seq = .wait i :: rest) (hn : s.cfg.busyMaxPolls = none)
    (hidle : answerAt s 0 ≠ s.cfg.busyActiveLevel) :
    step s = .next (runOps rest ((afterSamples 1 s).addLog [.ev (.sample (answerAt s 0))])) := by
  rw [step_wait hseq, runOps_of_done (.wait i) rest s _ (fireWait_idle i s hn hidle)]

/-- A step whose unbounded wait samples busy leaves the wait standing, one poll later. -/
theorem step_wait_busy (hseq : s.seq = .wait i :: rest) (hn : s.cfg.busyMaxPolls = none)
    (hbusy : answerAt s 0 = s.cfg.busyActiveLevel) :
    step s = .next (((afterSamples 1 s).addLog (busyPairs s.cfg 1)).setSeq (.wait (i + 1) :: rest)) := by
  rw [step_wait hseq, runOps_of_hold (.wait i) _ rest s _ (fireWait_holds i s hn hbusy)]

end

/-- Settles O15: a bounded wait passes; an unbounded one goes by its next sample. -/
theorem waitIdlePolls : Obligations.WaitIdlePolls := by
  intro s i rest hseq
  refine ⟨?bounded, step_wait_idle hseq, step_wait_busy hseq⟩
  case bounded =>
    rintro rfl hbound
    obtain ⟨m, w, hends, hrun⟩ := runOps_wait rest s (.inl hbound)
    exact ⟨m, w, hends, (step_wait hseq).trans (congrArg Host.Outcome.next hrun)⟩

/-- One step more than a run that has not stopped is a step from where the run is. -/
theorem run_succ_of_run {M : Host.Core} {k : Nat} {s t : M.State} (h : M.run k s = .next t) :
    M.run (k + 1) s = M.step t := by
  induction k generalizing s with
  | zero =>
    obtain rfl := Host.Outcome.next.inj h
    rw [Host.Core.run]
    cases M.step s <;> rfl
  | succ k ih =>
    rw [Host.Core.run] at h ⊢
    cases hstep : M.step s with
    | next u => rw [hstep] at h; exact ih h
    | fault r => rw [hstep] at h; exact absurd h (by simp)
    | refused r => rw [hstep] at h; exact absurd h (by simp)

/-- Where a request with `rest` to come stands after `k` polls of its wait, each busy, the first of them counted as `i`. -/
def polledBusy (i : Nat) (rest : List SeqOp) (k : Nat) (s : State) : State :=
  ((afterSamples k s).addLog (busyPairs s.cfg k)).setSeq (.wait (i + k) :: rest)

section
variable (i : Nat) (rest : List SeqOp) (k : Nat) (s : State)

theorem answerAt_polledBusy (j : Nat) : answerAt (polledBusy i rest k s) j = answerAt s (k + j) :=
  answerAt_afterSamples k j s

/-- What is sampled and emitted after the busy polls comes after their answers and their pairs. -/
theorem addLog_afterSamples_polledBusy (m : Nat) (l : List Act) :
    (afterSamples m (polledBusy i rest k s)).addLog l =
      ((afterSamples (k + m) s).addLog (busyPairs s.cfg k ++ l)).setSeq (.wait (i + k) :: rest) := by
  rw [← afterSamples_afterSamples, ← State.addLog_addLog]
  rfl

/-- One busy poll more. -/
theorem polledBusy_succ :
    ((afterSamples 1 (polledBusy i rest k s)).addLog (busyPairs s.cfg 1)).setSeq (.wait (i + k + 1) :: rest) =
      polledBusy i rest (k + 1) s := by
  rw [addLog_afterSamples_polledBusy, ← busyPairs_snoc]
  rfl

end

/-- While every answer is busy, a run under `UNBOUNDED` stays in the wait, one poll a step (R226, log 5). -/
theorem run_polledBusy {s : State} {i k : Nat} {rest : List SeqOp} (hseq : s.seq = .wait i :: rest)
    (hn : s.cfg.busyMaxPolls = none) (hbusy : ∀ j, j < k → answerAt s j = s.cfg.busyActiveLevel) :
    core.run k s = .next (polledBusy i rest k s) := by
  induction k with
  | zero =>
    have hstart : polledBusy i rest 0 s = s := by
      simp [polledBusy, busyPairs, State.addLog, State.setSeq, ← hseq]
    rw [hstart]
    rfl
  | succ k ih =>
    have hrun := ih fun j hj => hbusy j (Nat.lt_succ_of_lt hj)
    have hnext : answerAt (polledBusy i rest k s) 0 = s.cfg.busyActiveLevel := by
      rw [answerAt_polledBusy]
      exact hbusy k (Nat.lt_succ_self k)
    refine (run_succ_of_run hrun).trans ?_
    refine (step_wait_busy (s := polledBusy i rest k s) rfl hn hnext).trans ?_
    exact congrArg Host.Outcome.next (polledBusy_succ i rest k s)

/-- Settles O16: `k` busy polls, by induction, then the step whose sample reads idle. -/
theorem unboundedWaitHangsUntilIdle : Obligations.UnboundedWaitHangsUntilIdle := by
  intro s i k rest hseq hn hbusy
  have hrun := run_polledBusy hseq hn hbusy
  refine ⟨hrun, fun hidle => ?_⟩
  have hans : answerAt (polledBusy i rest k s) 0 = answerAt s k := answerAt_polledBusy i rest k s 0
  refine (run_succ_of_run hrun).trans ?_
  refine (step_wait_idle (s := polledBusy i rest k s) rfl hn (by rw [hans]; exact hidle)).trans ?_
  rw [hans, addLog_afterSamples_polledBusy]
  rfl

/-! The frames. -/

/-- SEND_BYTES sends its bytes in order, and then what follows runs (R131). -/
theorem runOps_sendBytes (bs : List Byte) (ops : List SeqOp) (s : State) :
    runOps (sendBytesOps bs ++ ops) s = runOps ops (bs.foldl (fun t b => sendData b t) s) := by
  induction bs generalizing s with
  | nil => rfl
  | cons b bs ih => exact ih (sendData b s)

/-- Settles O17: both primitives send a frame, and SEND_BYTES is a run of them. -/
theorem sendPrimitivesDriveThePin : Obligations.SendPrimitivesDriveThePin :=
  ⟨fun b s => sendFrame_eq (.cmd b) s, fun b s => sendFrame_eq (.dat b) s, runOps_sendBytes⟩

/-- Settles O19: to run a data frame is to emit it. -/
theorem dataFrameIsSent : Obligations.DataFrameIsSent := by
  intro b s
  rw [exec_of_decodeFrame (.dat b) (.data b) s rfl, sendFrame_eq]
  rfl

/-! INIT's window. -/

theorem xb_zero : xb 0 = 0x00 := by decide

theorem lo8_zero : lo8 0 = 0x00 := by decide

theorem hi8_zero : hi8 0 = 0x00 := by decide

/-- SET_AREA is two commands, each with its window as payload (R134). -/
theorem setAreaOps_eq (xs ys xe ye : Int) : setAreaOps xs ys xe ye =
    ([.cmd 0x44, .dat (xb xs), .dat (xb xe),
      .cmd 0x45, .dat (lo8 ys), .dat (hi8 ys), .dat (lo8 ye), .dat (hi8 ye)] : List Frame).map .frame := rfl

section
variable (c : Config)

theorem initWindowOps_lowDir :
    initWindowOps c .lowDir = setAreaOps 0 0 (c.width - 1) (c.height - 1) := rfl

theorem initWindowOps_highEndFirst (h : c.yWindowReading = .highEndFirst) :
    initWindowOps c .highDir = setAreaOps 0 (c.height - 1) (c.width - 1) 0 := by
  unfold initWindowOps
  rw [h]

theorem initWindowOps_msbFirst (h : c.yWindowReading = .msbFirst) : initWindowOps c .highDir =
    ([.cmd 0x44, .dat 0x00, .dat (xb (c.width - 1)), .cmd 0x45, .dat 0x00, .dat 0x00,
      .dat (hi8 (c.height - 1)), .dat (lo8 (c.height - 1))] : List Frame).map .frame := by
  unfold initWindowOps
  rw [h]
  rfl

end

/-- Settles O20: the first two rows of R141's table are SET_AREA, an end at 0 being the byte 0x00; the third is written out. -/
theorem initWindowFollowsTheTable : Obligations.InitWindowFollowsTheTable := by
  rintro c _ _ - rfl rfl
  refine ⟨?_, initWindowOps_lowDir c, fun h => ⟨?_, initWindowOps_highEndFirst c h⟩, initWindowOps_msbFirst c⟩
  · rw [initWindowOps_lowDir, setAreaOps_eq, xb_zero, lo8_zero, hi8_zero]
  · rw [initWindowOps_highEndFirst c h, setAreaOps_eq, xb_zero, lo8_zero, hi8_zero]

end Sys2Proof.PrimitivesFamily
end

section
/-! PROOFS of the family 43_framebuffer.md: the five framebuffer requests (R160 to R166), the rotation mapping (R163), and
what keeps them and the protocol unit apart (R167). -/

namespace Sys2Proof.FramebufferFamily

open Sys2Proof Machine Safety StateFamily MemoryFamily

/-! Ends of requests. -/

/-- A request that has performed `l`, leaving memory at `m`, ends with its response (R84, R261). -/
theorem runOps_answers (m : Memory) (l : List Act) (r : Response) (s : State) :
    runOps [.respond r] ((s.setMem m).addLog l) = { completed l r s with mem := m } := rfl

/-- A request that only answers. -/
theorem runOps_only_answers (r : Response) (s : State) : runOps [.respond r] s = completed [] r s := by
  have hnothing : (s.setMem s.mem).addLog [] = s := by simp [State.setMem, State.addLog]
  have hends := runOps_answers s.mem [] r s
  rwa [hnothing] at hends

/-! FBCLEAR. -/

/-- FBCLEAR's sequence, whole: the fill of an admitted buffer, then the response (R160). -/
theorem runOps_clear {base : Nat} {s : State} (v : Byte) (r : Response)
    (hadm : RangeAdmitted s.cfg base (bufLen s.cfg)) :
    runOps (clearOps s.cfg base v ++ [.respond r]) s =
      { completed ((List.range (bufLen s.cfg)).map fun i => Act.wr (base + i) v) r s with
        mem := fillMem s.mem (rangeAddrs base (bufLen s.cfg)) v } := by
  have hlog : (rangeAddrs base (bufLen s.cfg)).map (fun a => Act.wr a v) =
      (List.range (bufLen s.cfg)).map fun i => Act.wr (base + i) v := List.map_map
  rw [clearOps_eq, runOps_stores _ v _ s (rangeAddrs_admitted hadm), hlog, runOps_answers]

/-- A filled range reads as the fill, and every other byte as before. -/
theorem readByte_fill_range (m : Memory) (base len x : Nat) (v : Byte) (h : m.wf = true) :
    readByte (fillMem m (rangeAddrs base len) v) x = if base ≤ x ∧ x < base + len then v else readByte m x := by
  rw [readByte_fillMem _ v m x h]
  simp only [mem_rangeAddrs]

/-- Settles O36: a run of stores over the addresses of the buffer, then the response. -/
theorem fbclearFillsTheBuffer : Obligations.FbclearFillsTheBuffer := by
  intro buf col s hwf hadm
  refine ⟨?null, ?fill⟩
  case null =>
    rintro rfl
    exact congrArg Host.Outcome.next (noop_eq s)
  case fill =>
    rintro a rfl
    rw [exec_fbclear_runs, runOps_clear (fillByte col) respDone (hadm a rfl)]
    exact ⟨_, rfl, fun x => readByte_fill_range s.mem a.toNat _ x _ hwf, fillMem_wf _ _ s.mem hwf, rfl⟩

/-! PLOT of a native point. -/

theorem inNative_iff (c : Config) (x y : Int) :
    inNative c x y = true ↔ 0 ≤ x ∧ x < c.width ∧ 0 ≤ y ∧ y < c.height := by
  simp only [inNative, Bool.and_eq_true, decide_eq_true_eq, and_assoc]

/-- The bits of a byte with one pixel plotted: the pixel's by its color, the others as they were (R53, R164). -/
theorem getLsbD_plotByte (v : Byte) {x : Int} (hx : 0 ≤ x) (col : Bool) {k : Nat} (hk : k < 8) :
    (plotByte v (pixelMask x) col).getLsbD k = if k = 7 - x.toNat % 8 then !col else v.getLsbD k := by
  lift x to Nat using hx
  have hmask : (pixelMask x).getLsbD k = decide (k = 7 - x % 8) := by
    rw [pixelMask_natCast]
    exact getLsbD_shifted_top (x % 8) (Nat.mod_lt x (by decide)) k hk
  rw [Int.toNat_natCast]
  cases col with
  | true =>
    simp only [plotByte, if_true, BitVec.getLsbD_and, BitVec.getLsbD_not, hmask, hk]
    by_cases hpixel : k = 7 - x % 8 <;> simp [hpixel]
  | false =>
    simp only [plotByte, Bool.false_eq_true, if_false, BitVec.getLsbD_or, hmask]
    by_cases hpixel : k = 7 - x % 8 <;> simp [hpixel]

/-- PLOT's read and write, as the change of memory and the two accesses of the log (R164). -/
theorem plotAt_eq (a : Nat) (m : Byte) (col : Bool) (s : State) :
    plotAt a m col s = (s.setMem (writeByte s.mem a (plotByte (readByte s.mem a) m col))).addLog
      [.rd a (readByte s.mem a), .wr a (plotByte (readByte s.mem a) m col)] := by
  simp [plotAt, storeByte, State.addLog, State.setMem]

/-- PLOT outside the native bounds performs nothing (R164). -/
theorem runOps_plot_outside (base : Nat) {x y : Int} (col : Bool) (r : Response) {s : State}
    (h : ¬ (0 ≤ x ∧ x < s.cfg.width ∧ 0 ≤ y ∧ y < s.cfg.height)) :
    runOps (plotOps s.cfg base x y col ++ [.respond r]) s = completed [] r s := by
  rw [plotOps, if_neg fun hin => h ((inNative_iff s.cfg x y).1 hin)]
  exact runOps_only_answers r s

/-- PLOT of a native point whose byte is admitted writes that pixel (R164). -/
theorem runOps_plot_inside (base : Nat) {x y : Int} (col : Bool) {s : State} (hw : s.cfg.width % 8 = 0)
    (hwf : s.mem.wf = true) (hin : 0 ≤ x ∧ x < s.cfg.width ∧ 0 ≤ y ∧ y < s.cfg.height)
    (hadm : admits s.cfg (pixelAddr s.cfg base x y) = true) :
    PixelWritten s base x y col (runOps (plotOps s.cfg base x y col ++ [.respond respDone]) s) := by
  obtain ⟨hx, -, hy, -⟩ := id hin
  rw [plotOps, if_pos ((inNative_iff s.cfg x y).2 hin), base_add_pixelIndex base hw hx hy, List.singleton_append,
    runOps_plot _ _ _ _ _ hadm, plotAt_eq, runOps_answers]
  exact ⟨plotByte (readByte s.mem (pixelAddr s.cfg base x y)) (pixelMask x) col,
    fun _ hk => getLsbD_plotByte _ hx col hk, fun a => readByte_writeByte s.mem _ a _ hwf, writeByte_wf _ _ _ hwf, rfl⟩

/-- Settles O37: FBSETABS is PLOT at its point, in bounds and out. -/
theorem fbsetabsSetsOnePixel : Obligations.FbsetabsSetsOnePixel := by
  intro a x y col s hok hwf
  have hplots := exec_pixel_plots a x y col s _ x.toInt y.toInt (.inl ⟨rfl, rfl, rfl⟩)
  refine ⟨congrArg Host.Outcome.next (noop_eq s), fun hout => ?outside, fun hx hxw hy hyh hadm => ?inside⟩
  case outside => rw [hplots, runOps_plot_outside a.toNat col _ hout]; rfl
  case inside => exact ⟨_, hplots, runOps_plot_inside a.toNat col (configOk_width hok) hwf ⟨hx, hxw, hy, hyh⟩ hadm⟩

/-! The orientations and MAP. -/

/-- The four values of `ROT` (R23). -/
theorem rot_cases : ∀ v : BitVec 2, v = 0 ∨ v = 1 ∨ v = 2 ∨ v = 3 := by decide

theorem rotSwaps_iff (v : BitVec 2) : rotSwaps v = true ↔ v = 1 ∨ v = 3 := by
  simp [rotSwaps]

theorem logW_eq (s : State) : logW s = if s.rot = 1 ∨ s.rot = 3 then s.cfg.height else s.cfg.width := by
  simp only [logW, rotSwaps_iff]

theorem logH_eq (s : State) : logH s = if s.rot = 1 ∨ s.rot = 3 then s.cfg.width else s.cfg.height := by
  simp only [logH, rotSwaps_iff]

theorem inLogical_iff (s : State) (x y : Int) :
    inLogical s x y = true ↔ 0 ≤ x ∧ x < logW s ∧ 0 ≤ y ∧ y < logH s := by
  simp only [inLogical, Bool.and_eq_true, decide_eq_true_eq, and_assoc]

/-- At 0° and 180° the logical bounds are the native ones (R23). -/
theorem inLogical_upright {s : State} (h : s.rot = 0 ∨ s.rot = 2) (x y : Int) :
    inLogical s x y = true ↔ 0 ≤ x ∧ x < s.cfg.width ∧ 0 ≤ y ∧ y < s.cfg.height := by
  have hkeeps : ¬ (s.rot = 1 ∨ s.rot = 3) := by rcases h with h | h <;> rw [h] <;> decide
  rw [inLogical_iff, logW_eq, logH_eq, if_neg hkeeps, if_neg hkeeps]

/-- At 90° and 270° the logical bounds are the native ones swapped (R23). -/
theorem inLogical_turned {s : State} (h : s.rot = 1 ∨ s.rot = 3) (x y : Int) :
    inLogical s x y = true ↔ 0 ≤ x ∧ x < s.cfg.height ∧ 0 ≤ y ∧ y < s.cfg.width := by
  rw [inLogical_iff, logW_eq, logH_eq, if_pos h, if_pos h]

section
variable (c : Config) (x y : Int)

theorem mapPoint_0 : mapPoint c 0 x y = (x, y) := rfl
theorem mapPoint_90 : mapPoint c 1 x y = (c.width - y, x) := rfl
theorem mapPoint_180 : mapPoint c 2 x y = (c.width - x, c.height - y) := rfl
theorem mapPoint_270 : mapPoint c 3 x y = (y, c.height - x) := rfl

end

/-- Settles O40, orientation by orientation: each is linear arithmetic over the bounds it swaps or keeps. -/
theorem mapFollowsTheTable : Obligations.MapFollowsTheTable := by
  rintro s x y nx ny _ _ rfl rfl hmap
  have hnative : inNative s.cfg nx ny = false ↔ ¬ (0 ≤ nx ∧ nx < s.cfg.width ∧ 0 ≤ ny ∧ ny < s.cfg.height) := by
    rw [← inNative_iff, Bool.not_eq_true]
  rw [hnative]
  rcases rot_cases s.rot with hrot | hrot | hrot | hrot
  case inl =>
    rw [hrot, mapPoint_0, Prod.mk.injEq] at hmap
    rw [inLogical_upright (.inl hrot)]
    bv_omega
  case inr.inl =>
    rw [hrot, mapPoint_90, Prod.mk.injEq] at hmap
    rw [inLogical_turned (.inl hrot)]
    bv_omega
  case inr.inr.inl =>
    rw [hrot, mapPoint_180, Prod.mk.injEq] at hmap
    rw [inLogical_upright (.inr hrot)]
    bv_omega
  case inr.inr.inr =>
    rw [hrot, mapPoint_270, Prod.mk.injEq] at hmap
    rw [inLogical_turned (.inr hrot)]
    bv_omega

/-- Settles O42: both sides are linear in the point. -/
theorem quarterTurnTwiceIsHalfTurn : Obligations.QuarterTurnTwiceIsHalfTurn := by
  refine ⟨fun c x y hsquare => ?square, fun c hw hh => ?oblong⟩
  case square => simp only [mapPoint_90, mapPoint_180, hsquare]
  case oblong => simp only [mapPoint_90, mapPoint_180, hw, hh]; decide

/-! FBSETPIX, SETROT and RDDIM. -/

/-- FBSETPIX outside the logical bounds only answers (R162, R222). -/
theorem exec_fbsetpix_outside (a x y : Word) (col : Bool) {s : State} (h : ¬ inLogical s x.toInt y.toInt = true) :
    exec (.fbsetpix (some a) x y col) s = .next (completed [] ⟨0, 0⟩ s) :=
  congrArg Host.Outcome.next ((if_neg h).trans (noop_eq s))

/-- Settles O39: inside the logical bounds FBSETPIX is PLOT at the mapped point. -/
theorem fbsetpixSetsTheMappedPixel : Obligations.FbsetpixSetsTheMappedPixel := by
  rintro a x y col s _ _ _ _ nx ny hok hwf rfl rfl rfl rfl h0 h90 h180 h270
  have hmap : (nx, ny) = mapPoint s.cfg s.rot x.toInt y.toInt := by
    rcases rot_cases s.rot with hrot | hrot | hrot | hrot <;> rw [hrot]
    · exact h0 hrot
    · exact h90 hrot
    · exact h180 hrot
    · exact h270 hrot
  have hplots (hin : inLogical s x.toInt y.toInt = true) :=
    exec_pixel_plots a x y col s _ nx ny (.inr ⟨rfl, hin, hmap⟩)
  refine ⟨congrArg Host.Outcome.next (noop_eq s), fun hout => ?outside, fun hx hxw hy hyh hdrop => ?dropped,
    fun hx hxw hy hyh hnx hnxw hny hnyh hadm => ?written⟩
  case outside => exact exec_fbsetpix_outside a x y col fun hin => hout ((inLogical_iff s _ _).1 hin)
  case dropped =>
    rw [hplots ((inLogical_iff s _ _).2 ⟨hx, hxw, hy, hyh⟩), runOps_plot_outside a.toNat col _ hdrop]; rfl
  case written =>
    exact ⟨_, hplots ((inLogical_iff s _ _).2 ⟨hx, hxw, hy, hyh⟩),
      runOps_plot_inside a.toNat col (configOk_width hok) hwf ⟨hnx, hnxw, hny, hnyh⟩ hadm⟩

/-- Settles O43: at 0° the logical bounds are the native ones and MAP moves no point, so where FBSETPIX checks its bounds
FBSETABS has PLOT drop the point. -/
theorem uprightPixelIsAbsolute : Obligations.UprightPixelIsAbsolute := by
  intro buf x y col s hrot
  cases buf with
  | none => rfl
  | some a =>
    have habs := exec_pixel_plots a x y col s _ x.toInt y.toInt (.inl ⟨rfl, rfl, rfl⟩)
    by_cases hin : inLogical s x.toInt y.toInt = true
    · rw [habs]
      exact exec_pixel_plots a x y col s _ x.toInt y.toInt (.inr ⟨rfl, hin, by rw [hrot, mapPoint_0]⟩)
    · have hout : ¬ (0 ≤ x.toInt ∧ x.toInt < s.cfg.width ∧ 0 ≤ y.toInt ∧ y.toInt < s.cfg.height) := by
        rwa [inLogical_upright (.inl hrot)] at hin
      rw [habs, exec_fbsetpix_outside a x y col hin, runOps_plot_outside a.toNat col _ hout]
      rfl

/-- Settles O44: the request only answers once ROT is set, and the dimensions are read from ROT. -/
theorem setrotOnlyTurns : Obligations.SetrotOnlyTurns := by
  intro v s
  refine ⟨_, congrArg Host.Outcome.next (runOps_only_answers respDone (s.setRot v)), rfl,
    fun h => ?upright, fun h => ?turned⟩
  case upright =>
    rw [logW_eq, logH_eq]
    rcases h with rfl | rfl <;> exact ⟨rfl, rfl⟩
  case turned =>
    rw [logW_eq, logH_eq]
    exact ⟨if_pos h, if_pos h⟩

/-- The dimensions of a legal configuration fit a response word (R7, log 22). -/
theorem configOk_fits {c : Config} (h : configOk c = true) : c.width < 2 ^ 32 ∧ c.height < 2 ^ 32 := by
  obtain ⟨-, hw, -, -, hh, -⟩ := (Scope.brokenConfigurationRefusesAll c).1.1 h
  omega

/-- Settles O45: RDDIM only answers, with two numbers that fit their words. -/
theorem rddimReportsDimensions : Obligations.RddimReportsDimensions := by
  intro s hok
  obtain ⟨hw, hh⟩ := configOk_fits hok
  refine ⟨dimResponse s, congrArg Host.Outcome.next (runOps_only_answers _ s), ?width, ?height⟩
  case width =>
    rw [← logW_eq, dimResponse, BitVec.toNat_ofNat, Nat.mod_eq_of_lt]
    rw [logW_eq]; split <;> assumption
  case height =>
    rw [← logH_eq, dimResponse, BitVec.toNat_ofNat, Nat.mod_eq_of_lt]
    rw [logH_eq]; split <;> assumption

/-! Runs whose operations leave some part of the state alone (R167). -/

/-- The state once an operation has been started, performed or not. -/
def firedState : Fired → State
  | .done t => t
  | .hold _ t => t

/-- An access leaves alone what its performance leaves alone. -/
theorem firedState_fireAccess {α : Type} (f : State → α) {op : SeqOp} {a : Nat} {s performed : State}
    (h : f performed = f s) : f (firedState (fireAccess op a s performed)) = f s := by
  unfold fireAccess
  split
  · exact h
  · rfl

/-- A sequence leaves alone what each of its operations, and the sequencer's own fields, leave alone. -/
theorem runOps_keeps {α : Type} (f : State → α) (ok : SeqOp → Bool)
    (hfire : ∀ op s, ok op = true → f (firedState (fire op s)) = f s)
    (hseq : ∀ l s, f (s.setSeq l) = f s) (hlatched : ∀ l s, f (s.setLatched l) = f s)
    {ops : List SeqOp} (hops : ops.all ok = true) (s : State) : f (runOps ops s) = f s := by
  induction ops generalizing s with
  | nil => exact (hlatched none _).trans (hseq [] s)
  | cons op ops ih =>
    rw [List.all_cons, Bool.and_eq_true] at hops
    obtain ⟨hop, hrest⟩ := hops
    have hfired := hfire op s hop
    cases h : fire op s with
    | done t => rw [h] at hfired; rw [runOps_of_done _ _ _ _ h, ih hrest]; exact hfired
    | hold op' t => rw [h] at hfired; rw [runOps_of_hold _ _ _ _ _ h, hseq]; exact hfired

/-! The framebuffer requests and the protocol unit. -/

/-- What R167 keeps from the framebuffer requests: the trace, `LIFE`, `MISUSE`, both pin latches and the environment. -/
def protocolUnit (s : State) :
    List Event × Life × Bool × Option Level × Option Level × List Level × List UpResult × Nat :=
  (trace s, s.life, s.misuse, s.rstL, s.dcL, s.busyAnswers, s.upAnswers, s.drawn)

/-- An operation of the framebuffer unit: a write, a pixel, or the response. -/
def framebufferOp : SeqOp → Bool
  | .store _ _ => true
  | .plot _ _ _ => true
  | .respond _ => true
  | _ => false

/-- An access to memory is no event (R9, R10). -/
theorem protocolUnit_storeByte (a : Nat) (v : Byte) (s : State) :
    protocolUnit (storeByte a v s) = protocolUnit s := by
  simp [protocolUnit, trace, eventOf]

theorem protocolUnit_plotAt (a : Nat) (m : Byte) (col : Bool) (s : State) :
    protocolUnit (plotAt a m col s) = protocolUnit s := by
  simp [protocolUnit, trace, eventOf]

theorem protocolUnit_fire (op : SeqOp) (s : State) (h : framebufferOp op = true) :
    protocolUnit (firedState (fire op s)) = protocolUnit s := by
  cases op with
  | store a v => exact firedState_fireAccess protocolUnit (protocolUnit_storeByte a v s)
  | plot a m col => exact firedState_fireAccess protocolUnit (protocolUnit_plotAt a m col s)
  | respond r => rfl
  | _ => exact absurd h (by simp [framebufferOp])

theorem protocolUnit_runOps {ops : List SeqOp} (h : ops.all framebufferOp = true) (s : State) :
    protocolUnit (runOps ops s) = protocolUnit s :=
  runOps_keeps protocolUnit framebufferOp protocolUnit_fire (fun _ _ => rfl) (fun _ _ => rfl) h s

/-- A framebuffer request runs operations of the framebuffer unit, SETROT with ROT set (R160 to R166). -/
theorem exec_framebuffer_runs {i : Instr} (hi : framebufferRequest i = true) (s : State) :
    ∃ ops, exec i s = .next (runOps ops (startState i s)) ∧ ops.all framebufferOp = true := by
  have ignored : ∃ ops, (Host.Outcome.next (noop s) : Host.Outcome State Fault Refusal) = .next (runOps ops s) ∧
      ops.all framebufferOp = true := ⟨_, rfl, rfl⟩
  have plotted (base : Nat) (px py : Int) (col : Bool) :
      (plotOps s.cfg base px py col ++ [SeqOp.respond respDone]).all framebufferOp = true := by
    unfold plotOps
    split <;> rfl
  cases i with
  | fbclear buf col =>
    cases buf with
    | none => exact ignored
    | some a => exact ⟨_, exec_fbclear_runs a col s, by simp [clearOps, framebufferOp]⟩
  | fbsetabs buf x y col =>
    cases buf with
    | none => exact ignored
    | some a => exact ⟨_, rfl, plotted _ _ _ _⟩
  | fbsetpix buf x y col =>
    cases buf with
    | none => exact ignored
    | some a =>
      by_cases hin : inLogical s x.toInt y.toInt = true
      · exact ⟨_, exec_pixel_plots a x y col s _ _ _ (.inr ⟨rfl, hin, rfl⟩), plotted _ _ _ _⟩
      · exact ⟨_, congrArg Host.Outcome.next (if_neg hin), rfl⟩
  | setrot rot => exact ⟨_, rfl, rfl⟩
  | rddim => exact ⟨_, rfl, rfl⟩
  | _ => exact absurd hi (by simp [framebufferRequest])

/-- Setting ROT is all a framebuffer request's start can do. -/
theorem protocolUnit_startState {i : Instr} (hi : framebufferRequest i = true) (s : State) :
    protocolUnit (startState i s) = protocolUnit s := by
  cases i with
  | fbclear | fbsetpix | fbsetabs | setrot | rddim => rfl
  | _ => exact absurd hi (by simp [framebufferRequest])

/-- Settles O49: neither the start of a framebuffer request nor its operations touch the protocol unit. -/
theorem framebufferRequestsAreSilent : Obligations.FramebufferRequestsAreSilent := by
  intro i s t hi he
  obtain ⟨ops, hrun, hops⟩ := exec_framebuffer_runs hi s
  obtain rfl := Host.Outcome.next.inj (hrun.symm.trans he)
  have hunit := (protocolUnit_runOps hops _).trans (protocolUnit_startState hi s)
  simpa only [protocolUnit, Prod.mk.injEq] using hunit

/-! The protocol requests and memory: their operations send, wait, drive pins and read. -/

/-- An operation that writes no memory. -/
def readOnlyOp : SeqOp → Bool
  | .store _ _ => false
  | .plot _ _ _ => false
  | _ => true

theorem pollUpTo_mem (n : Nat) (s : State) : (pollUpTo n s).mem = s.mem := by
  rcases pollUpTo_eq n s with ⟨k, -, -, -, h⟩ | ⟨-, h⟩ <;> rw [h] <;> rfl

theorem fireWait_mem (j : Nat) (s : State) : (firedState (fireWait j s)).mem = s.mem := by
  unfold fireWait
  split
  · exact pollUpTo_mem _ s
  · split <;> rfl

theorem readOnly_fire (op : SeqOp) (s : State) (h : readOnlyOp op = true) :
    (firedState (fire op s)).mem = s.mem := by
  cases op with
  | wait j => exact fireWait_mem j s
  | sendMem a => exact firedState_fireAccess State.mem rfl
  | store a v => exact absurd h (by simp [readOnlyOp])
  | plot a m col => exact absurd h (by simp [readOnlyOp])
  | frame f => rfl
  | rst l => rfl
  | delay ms => rfl
  | life l => rfl
  | respond r => rfl

theorem readOnly_runOps {ops : List SeqOp} (h : ops.all readOnlyOp = true) (s : State) :
    (runOps ops s).mem = s.mem :=
  runOps_keeps State.mem readOnlyOp readOnly_fire (fun _ _ => rfl) (fun _ _ => rfl) h s

section
variable (c : Config)

theorem readOnly_frames (fs : List Frame) : (fs.map SeqOp.frame).all readOnlyOp = true := by
  simp [readOnlyOp]

theorem readOnly_sendBytes (bs : List Byte) : (sendBytesOps bs).all readOnlyOp = true := by
  simp [sendBytesOps, datOp, readOnlyOp]

theorem readOnly_dataPhase (b : Byte) (buf : Buf) : (dataPhaseOps c b buf).all readOnlyOp = true := by
  cases buf with
  | none => rfl
  | some a => simp [dataPhaseOps, sendBufferOps, cmdOp, readOnlyOp]

theorem readOnly_sendWhite (b : Byte) : (sendWhiteOps c b).all readOnlyOp = true := by
  simp [sendWhiteOps, cmdOp, datOp, readOnlyOp]

theorem readOnly_initWindow (mode : InitMode) : (initWindowOps c mode).all readOnlyOp = true := by
  unfold initWindowOps
  split <;> rfl

theorem readOnly_initAfter (mode : InitMode) (r : UpResult) : (initAfter c mode r).all readOnlyOp = true := by
  cases r with
  | failure => rfl
  | success =>
    simp only [initAfter, initOps, List.all_append, readOnly_sendBytes, readOnly_initWindow, emitFramesOps,
      readOnly_frames]
    rfl

theorem readOnly_blit (base : Nat) (y : Int) (g : BlitGeom) : (blitOps base y g).all readOnlyOp = true := by
  have hdata : (blitDataOps base g).all readOnlyOp = true := by simp [blitDataOps_eq, readOnlyOp]
  simp only [blitOps, List.all_append, hdata]
  rfl

end

/-! The protocol requests and ROT: no operation reads it. -/

/-- A change of the state alone, whether or not the operation was performed. -/
def mapFired (g : State → State) : Fired → Fired
  | .done t => .done (g t)
  | .hold op t => .hold op (g t)

theorem pollUpTo_setRot (n : Nat) (v : BitVec 2) (s : State) :
    pollUpTo n (s.setRot v) = (pollUpTo n s).setRot v := by
  induction n generalizing s with
  | zero => rfl
  | succ n ih =>
    cases hb : nextIsBusy s with
    | true =>
      have hb' : nextIsBusy (s.setRot v) = true := hb
      rw [pollUpTo, pollUpTo, if_pos hb, if_pos hb']
      exact ih (busyPoll s)
    | false =>
      have hb' : nextIsBusy (s.setRot v) = false := hb
      simp only [pollUpTo, hb, hb']
      rfl

theorem fireAccess_setRot (op : SeqOp) (a : Nat) (v : BitVec 2) (s performed : State) :
    fireAccess op a (s.setRot v) (performed.setRot v) = mapFired (State.setRot v) (fireAccess op a s performed) := by
  cases ha : admits s.cfg a with
  | true => rw [fireAccess_admitted op a s _ ha, fireAccess_admitted op a (s.setRot v) _ ha]; rfl
  | false => rw [fireAccess_blocked op a s _ ha, fireAccess_blocked op a (s.setRot v) _ ha]; rfl

theorem fireWait_setRot (j : Nat) (v : BitVec 2) (s : State) :
    fireWait j (s.setRot v) = mapFired (State.setRot v) (fireWait j s) := by
  have hbusy : nextIsBusy (s.setRot v) = nextIsBusy s := rfl
  unfold fireWait
  rw [State.setRot_cfg, hbusy]
  cases s.cfg.busyMaxPolls with
  | some n => exact congrArg Fired.done (pollUpTo_setRot (n - j) v s)
  | none => cases nextIsBusy s <;> rfl

theorem fire_setRot (op : SeqOp) (v : BitVec 2) (s : State) :
    fire op (s.setRot v) = mapFired (State.setRot v) (fire op s) := by
  cases op with
  | wait j => exact fireWait_setRot j v s
  | sendMem a => exact fireAccess_setRot _ a v s (sendFromMem a s)
  | store a w => exact fireAccess_setRot _ a v s (storeByte a w s)
  | plot a m col => exact fireAccess_setRot _ a v s (plotAt a m col s)
  | frame f => rfl
  | rst l => rfl
  | delay ms => rfl
  | life l => rfl
  | respond r => rfl

/-- A sequence runs alike under every ROT. -/
theorem runOps_setRot (ops : List SeqOp) (v : BitVec 2) (s : State) :
    runOps ops (s.setRot v) = (runOps ops s).setRot v := by
  refine runOps_simulation (fun s s' => s' = s.setRot v) ?fire ?seq ?latched ops s _ rfl
  case fire =>
    rintro op s _ rfl
    rw [fire_setRot]
    cases fire op s with
    | done t => exact .inl ⟨t, _, rfl, rfl, rfl⟩
    | hold op' t => exact .inr ⟨op', t, _, rfl, rfl, rfl⟩
  case seq => rintro l s _ rfl; rfl
  case latched => rintro s _ rfl; rfl

/-- A protocol request runs the same read-only operations under every ROT, from a start that differs in ROT alone (R167). -/
theorem exec_protocol_runs {i : Instr} (hi : i.isRequest = true) (hf : framebufferRequest i = false) (s : State) :
    ∃ (ops : List SeqOp) (u : State), ops.all readOnlyOp = true ∧ u.rot = s.rot ∧ u.mem = s.mem ∧
      ∀ v, exec i (s.setRot v) = .next (runOps ops (u.setRot v)) := by
  have ignored : ∃ (ops : List SeqOp) (u : State), ops.all readOnlyOp = true ∧ u.rot = s.rot ∧ u.mem = s.mem ∧
      ∀ v, (Host.Outcome.next (noop (s.setRot v)) : Host.Outcome State Fault Refusal) =
        .next (runOps ops (u.setRot v)) := ⟨_, s, rfl, rfl, rfl, fun _ => rfl⟩
  cases i with
  | init mode => exact ⟨_, bringUp s, readOnly_initAfter s.cfg mode (upResult s), rfl, rfl, fun _ => rfl⟩
  | wrfull buf =>
    refine ⟨dataPhaseOps s.cfg 0x24 buf ++ refreshFullOps ++ [.respond respDone], markMisuse s, ?_, rfl, rfl,
      fun _ => rfl⟩
    simp only [List.all_append, readOnly_dataPhase]
    rfl
  | wrbase buf =>
    refine ⟨dataPhaseOps s.cfg 0x24 buf ++ dataPhaseOps s.cfg 0x26 buf ++ refreshFullOps ++ [.respond respDone],
      markMisuse s, ?_, rfl, rfl, fun _ => rfl⟩
    simp only [List.all_append, readOnly_dataPhase]
    rfl
  | wrwhite =>
    refine ⟨sendWhiteOps s.cfg 0x24 ++ sendWhiteOps s.cfg 0x26 ++ refreshFullOps ++ [.respond respDone],
      markMisuse s, ?_, rfl, rfl, fun _ => rfl⟩
    simp only [List.all_append, readOnly_sendWhite]
    rfl
  | wrpart buf =>
    refine ⟨dataPhaseOps s.cfg 0x24 buf ++ refreshPartOps ++ [.respond respDone], markMisuse s, ?_, rfl, rfl,
      fun _ => rfl⟩
    simp only [List.all_append, readOnly_dataPhase]
    rfl
  | blit buf x y wd ht =>
    cases buf with
    | none => exact ignored
    | some a =>
      by_cases hargs : blitArgsOk (coord x) (coord y) (coord wd) (coord ht) = true
      · exact ⟨blitOps a.toNat (coord y) (blitGeom s.cfg (coord x) (coord y) (coord wd) (coord ht)), markMisuse s,
          readOnly_blit _ _ _, rfl, rfl, fun _ => congrArg Host.Outcome.next (if_pos hargs)⟩
      · exact ⟨[.respond respDone], s, rfl, rfl, rfl, fun _ => congrArg Host.Outcome.next (if_neg hargs)⟩
  | sleep =>
    exact ⟨[cmdOp 0x10, datOp s.cfg.dsPayload] ++ waitOps ++ [.rst .low, .life .sleeping, .respond respDone],
      markMisuse s, rfl, rfl, rfl, fun _ => rfl⟩
  | fbclear | fbsetpix | fbsetabs | setrot | rddim => exact absurd hf (by simp [framebufferRequest])
  | _ => exact absurd hi (by simp [Instr.isRequest])

/-- Settles O50: a request's operations run alike under every ROT and write no memory, and so is a frame emitted. -/
theorem protocolRequestsLeaveRotAndMemory : Obligations.ProtocolRequestsLeaveRotAndMemory := by
  intro i s v hf
  cases hi : i.isRequest with
  | true =>
    obtain ⟨ops, u, hops, hrot, hmem, hrun⟩ := exec_protocol_runs hi hf s
    have hs : u.setRot s.rot = u := by rw [← hrot]; rfl
    refine ⟨runOps ops u, (hrun s.rot).trans (by rw [hs]), (runOps_rot ops u).trans hrot,
      (readOnly_runOps hops u).trans hmem, (hrun v).trans ?_⟩
    rw [runOps_setRot]
    rfl
  | false =>
    obtain ⟨f, he, hdec⟩ := exec_wireFrame i s hi
    exact ⟨_, he, rfl, rfl, exec_of_decodeFrame f i _ hdec⟩

end Sys2Proof.FramebufferFamily
end

section
/-! PROOFS of the family 60_exceptions.md: every request has one of R220's outcomes, an invalid argument is ignored (R222),
a bounded wait gives up (R223), and nothing but an unadmitted access stops the machine (R225). -/

namespace Sys2Proof.ExceptionsFamily

open Sys2Proof Machine Safety StateFamily MemoryFamily FramebufferFamily

/-! Invalid arguments. -/

/-- A BLIT that fails its argument check only answers (R105, R222). -/
theorem exec_blit_ignored (a x y wd ht : Word) (s : State)
    (h : x.toInt < 0 ∨ y.toInt < 0 ∨ wd.toInt < 0 ∨ ht.toInt < 0) :
    exec (.blit (some a) x y wd ht) s = .next (completed [] ⟨0, 0⟩ s) := by
  have hargs : ¬ blitArgsOk (coord x) (coord y) (coord wd) (coord ht) = true := by
    simp only [blitArgsOk, Bool.and_eq_true, decide_eq_true_eq]
    unfold coord
    omega
  exact congrArg Host.Outcome.next ((if_neg hargs).trans (noop_eq s))

/-- FBSETABS outside the native bounds only answers (R161, R222). -/
theorem exec_fbsetabs_ignored (a x y : Word) (col : Bool) {s : State}
    (h : ¬ (0 ≤ x.toInt ∧ x.toInt < s.cfg.width ∧ 0 ≤ y.toInt ∧ y.toInt < s.cfg.height)) :
    exec (.fbsetabs (some a) x y col) s = .next (completed [] ⟨0, 0⟩ s) := by
  rw [exec_pixel_plots a x y col s _ x.toInt y.toInt (.inl ⟨rfl, rfl, rfl⟩), runOps_plot_outside a.toNat col _ h]
  rfl

/-- FBSETPIX of a point that MAP takes outside the native bounds only answers, whether or not the point itself is inside the
logical ones (R162, R222). -/
theorem exec_fbsetpix_dropped (a x y : Word) (col : Bool) {s : State} {m : Int × Int}
    (hm : m = mapPoint s.cfg s.rot x.toInt y.toInt)
    (h : ¬ (0 ≤ m.1 ∧ m.1 < s.cfg.width ∧ 0 ≤ m.2 ∧ m.2 < s.cfg.height)) :
    exec (.fbsetpix (some a) x y col) s = .next (completed [] ⟨0, 0⟩ s) := by
  by_cases hin : inLogical s x.toInt y.toInt = true
  case pos =>
    rw [exec_pixel_plots a x y col s _ m.1 m.2 (.inr ⟨rfl, hin, hm⟩), runOps_plot_outside a.toNat col _ h]
    rfl
  case neg => exact exec_fbsetpix_outside a x y col hin

/-- Settles O31: without a buffer each request is the no-op at once, and with one each row of R222 is a check that fails. -/
theorem invalidArgumentsAreIgnored : Obligations.InvalidArgumentsAreIgnored := by
  intro buf x y wd ht col s m hm
  have hnoop : (Host.Outcome.next (noop s) : Host.Outcome State Fault Refusal) = .next (completed [] ⟨0, 0⟩ s) :=
    congrArg Host.Outcome.next (noop_eq s)
  cases buf with
  | none => exact ⟨fun _ => hnoop, fun _ => hnoop, fun _ => hnoop, fun _ => hnoop⟩
  | some a =>
    refine ⟨fun h => ?blit, fun h => absurd h (by simp), fun h => ?abs, fun h => ?pix⟩
    case blit => exact exec_blit_ignored a x y wd ht s (h.resolve_left (by simp))
    case abs => exact exec_fbsetabs_ignored a x y col (h.resolve_left (by simp))
    case pix =>
      rcases h.resolve_left (by simp) with hout | hdrop
      · exact exec_fbsetpix_outside a x y col fun hin => hout ((inLogical_iff s _ _).1 hin)
      · exact exec_fbsetpix_dropped a x y col hm hdrop

/-! What stops the machine, and what a request comes to. -/

/-- Every instruction answers a next state, from every state. -/
theorem exec_answers (i : Instr) (s : State) : ∃ t, exec i s = .next t := by
  cases hi : i.isRequest with
  | true =>
    obtain ⟨ops, r, u, he, -⟩ := exec_request i s hi
    exact ⟨_, he⟩
  | false =>
    obtain ⟨f, he, -⟩ := exec_wireFrame i s hi
    exact ⟨_, he⟩

/-- So does taking a request off the port: it is refused, or run (R224). -/
theorem acceptRequest_answers (r : Request) (s : State) : ∃ t, acceptRequest r s = .next t := by
  cases hdec : decodeRequest s.cfg r with
  | error e => exact ⟨_, acceptRequest_error r s e hdec⟩
  | ok i =>
    rw [acceptRequest_ok r s i hdec]
    exact exec_answers i _

/-- The sequencer finds an operation stuck only at an access that is not admitted (R50, R225). -/
theorem stuckAt_eq_some {op : SeqOp} {s : State} {a : Nat} (h : stuckAt op s = some a) :
    opAddr op = some a ∧ admits s.cfg a = false := by
  unfold stuckAt at h
  cases haddr : opAddr op with
  | none => simp [haddr] at h
  | some b =>
    cases hadm : admits s.cfg b with
    | true => simp [haddr, hadm] at h
    | false =>
      obtain rfl : b = a := by simpa [haddr, hadm] using h
      exact ⟨rfl, hadm⟩

/-- Taking up a request that is not stuck answers a next state. -/
theorem resume_answers {op : SeqOp} {rest : List SeqOp} {s : State} (hseq : s.seq = op :: rest)
    (hfree : ∀ a, ¬ StuckAt s a) : ∃ t, resume op rest s = .next t := by
  cases hstuck : stuckAt op s with
  | none => exact ⟨_, resume_free op rest s hstuck⟩
  | some a =>
    obtain ⟨haddr, hno⟩ := stuckAt_eq_some hstuck
    exact absurd ⟨op, rest, hseq, haddr, hno⟩ (hfree a)

/-- Settles O13, by what the step fetches: a request or nothing, a frame, or the operation a request stands before. -/
theorem onlyStuckStatesStop : Obligations.OnlyStuckStatesStop := by
  intro s hfree
  cases hseq : s.seq with
  | nil =>
    rw [step_idle s hseq]
    cases hport : s.port with
    | nil => exact ⟨s, fetchRequest_nil s hport⟩
    | cons r rest =>
      rw [fetchRequest_cons s r rest hport]
      exact acceptRequest_answers r _
  | cons op rest =>
    by_cases hframe : ∃ f, op = .frame f
    · obtain ⟨f, rfl⟩ := hframe
      exact ⟨_, (step_frame s f rest hseq).trans (runFrame_eq f _)⟩
    · rw [step_resume s op rest hseq fun f hf => hframe ⟨f, hf⟩]
      exact resume_answers hseq hfree

/-- A request that is run returns its one response, or stands as it was latched, stuck or in an unbounded wait, with nothing
answered (R220). -/
theorem exec_request_outcome {i : Instr} (hi : i.isRequest = true) (s : State) :
    ∃ t, exec i s = .next t ∧ t.port = s.port ∧
      ((Idle t ∧ t.latched = none ∧ ∃ resp, t.responses = s.responses ++ [resp]) ∨
       (t.latched = s.latched ∧ t.responses = s.responses ∧ ((∃ a, StuckAt t a) ∨ Waiting t))) := by
  obtain ⟨u, hstart, hrun⟩ := exec_body i s hi
  obtain ⟨-, -, hport, hresp, hlatched, -⟩ := hstart.fixed
  rw [← hport, ← hresp, ← hlatched]
  rcases hrun with ⟨r, he⟩ | ⟨body, hbody, he⟩
  · exact ⟨_, he, rfl, .inl ⟨rfl, rfl, r, rfl⟩⟩
  · refine ⟨_, he, runOps_port _ u, ?_⟩
    rcases runOps_request i body u hi hbody with ⟨hidle, hl, hr, -⟩ | ⟨hl, hr, -, -, hwhere⟩
    · exact .inl ⟨hidle, hl, _, hr⟩
    · exact .inr ⟨hl, hr, hwhere⟩

/-- Settles O53: a request that fails a check is refused (O9), and one that decodes is latched and run (O7). -/
theorem everyRequestHasOneOutcome : Obligations.EveryRequestHasOneOutcome := by
  intro s r rest hseq hport
  cases hdec : decodeRequest s.cfg r with
  | error e => exact ⟨_, refusedRequestOnlyMarks s r rest e hseq hport hdec, rfl, .inl ⟨⟨e, rfl⟩, rfl⟩⟩
  | ok i =>
    obtain ⟨t, he, hleft, hout⟩ := exec_request_outcome (decodeRequest_isRequest s.cfg r i hdec)
      ((s.setPort rest).setLatched (some r))
    have hstep := EncodingFamily.stepRunsTheDecodedRequest s r rest i hseq hport hdec
    exact ⟨t, hstep.trans he, hleft, .inr ⟨⟨i, rfl⟩, hout⟩⟩

/-! Busy samples. -/

@[simp] theorem sampleCount_append (l m : List Act) : sampleCount (l ++ m) = sampleCount l + sampleCount m :=
  List.countP_append

/-- A busy pair holds one sample (R132). -/
theorem sampleCount_busyPairs (c : Config) (k : Nat) : sampleCount (busyPairs c k) = k := by
  induction k with
  | zero => rfl
  | succ k ih => rw [busyPairs_snoc, sampleCount_append, ih]; rfl

/-- A bounded wait takes no more samples than its bound (R132, R223). -/
theorem sampleCount_pollUpTo (n : Nat) (s : State) :
    sampleCount (pollUpTo n s).log ≤ sampleCount s.log + n := by
  have hlog (m : Nat) (w : List Act) : ((afterSamples m s).addLog w).log = s.log ++ w := rfl
  rcases pollUpTo_eq n s with ⟨k, hk, -, -, hrun⟩ | ⟨-, hrun⟩
  · have hone (l : Level) : sampleCount [.ev (.sample l)] = 1 := rfl
    rw [hrun, hlog, sampleCount_append, sampleCount_append, sampleCount_busyPairs, hone]
    omega
  · rw [hrun, hlog, sampleCount_append, sampleCount_busyPairs]

/-- A frame is emitted without a sample (R130, R131). -/
theorem sampleCount_sendFrame (f : Frame) (s : State) : sampleCount (sendFrame f s).log = sampleCount s.log := by
  rw [(performed_sendFrame f s).log, sampleCount_append]
  cases f <;> rfl

/-- WAIT_IDLE among the operations. -/
def waitOp : SeqOp → Bool
  | .wait _ => true
  | _ => false

/-- How many waits a sequence holds. -/
def waitsIn (ops : List SeqOp) : Nat := ops.countP waitOp

/-- Under a bound only a wait samples, at most as often as the bound (R132). -/
theorem sampleCount_fire {n : Nat} (op : SeqOp) {s : State} (hn : s.cfg.busyMaxPolls = some n) :
    sampleCount (firedState (fire op s)).log ≤ sampleCount s.log + waitsIn [op] * n := by
  have keeps : sampleCount (firedState (fire op s)).log = sampleCount s.log →
      sampleCount (firedState (fire op s)).log ≤ sampleCount s.log + waitsIn [op] * n :=
    fun h => h ▸ Nat.le_add_right _ _
  cases op with
  | wait j =>
    have hfire : fire (.wait j) s = .done (pollUpTo (n - j) s) := by simp [fire, fireWait, hn]
    have hpolls := sampleCount_pollUpTo (n - j) s
    have hone : waitsIn [.wait j] = 1 := rfl
    rw [hfire, firedState, hone]
    omega
  | frame f => exact keeps (sampleCount_sendFrame f s)
  | rst l => exact keeps (by simp [fire, firedState, sampleCount])
  | delay ms => exact keeps (by simp [fire, firedState, sampleCount])
  | sendMem a => exact keeps (firedState_fireAccess (fun s => sampleCount s.log) (by simp [sampleCount]))
  | store a v => exact keeps (firedState_fireAccess (fun s => sampleCount s.log) (by simp [sampleCount]))
  | plot a m col => exact keeps (firedState_fireAccess (fun s => sampleCount s.log) (by simp [sampleCount]))
  | life l => exact keeps rfl
  | respond r => exact keeps rfl

theorem waitsIn_cons (op : SeqOp) (ops : List SeqOp) : waitsIn (op :: ops) = waitsIn [op] + waitsIn ops :=
  List.countP_append (l₁ := [op])

/-- Under a bound a sequence takes no more samples than its waits allow, wherever it stops. -/
theorem sampleCount_runOps {n : Nat} (ops : List SeqOp) (s : State) (hn : s.cfg.busyMaxPolls = some n) :
    sampleCount (runOps ops s).log ≤ sampleCount s.log + waitsIn ops * n := by
  induction ops generalizing s with
  | nil => exact Nat.le_add_right _ _
  | cons op ops ih =>
    have hfire := sampleCount_fire op hn
    rw [waitsIn_cons, Nat.add_mul]
    cases h : fire op s with
    | done t =>
      rw [h, firedState] at hfire
      have hrest := ih t (by rw [(fire_done_fixed op s t h).1, hn])
      rw [runOps_of_done _ _ _ _ h]
      omega
    | hold op' t =>
      rw [h, firedState] at hfire
      rw [runOps_of_hold _ _ _ _ _ h, State.setSeq_log]
      omega

/-! The waits of each request. -/

section
variable (c : Config)

@[simp] theorem waitsIn_append (l m : List SeqOp) : waitsIn (l ++ m) = waitsIn l + waitsIn m := List.countP_append

/-- A list of operations none of which is a wait. -/
theorem waitsIn_eq_zero {ops : List SeqOp} (h : ∀ op ∈ ops, waitOp op = false) : waitsIn ops = 0 :=
  List.countP_eq_zero.2 fun op hop => by simp [h op hop]

@[simp] theorem waitsIn_emitFrames (fs : List Frame) : waitsIn (emitFramesOps fs) = 0 :=
  waitsIn_eq_zero (by simp [emitFramesOps, waitOp])

@[simp] theorem waitsIn_sendBytes (bs : List Byte) : waitsIn (sendBytesOps bs) = 0 :=
  waitsIn_eq_zero (by simp [sendBytesOps, datOp, waitOp])

@[simp] theorem waitsIn_dataPhase (b : Byte) (buf : Buf) : waitsIn (dataPhaseOps c b buf) = 0 := by
  cases buf with
  | none => rfl
  | some a => exact waitsIn_eq_zero (by simp [dataPhaseOps, sendBufferOps, cmdOp, waitOp])

@[simp] theorem waitsIn_sendWhite (b : Byte) : waitsIn (sendWhiteOps c b) = 0 :=
  waitsIn_eq_zero (by simp [sendWhiteOps, cmdOp, datOp, waitOp])

@[simp] theorem waitsIn_initWindow (mode : InitMode) : waitsIn (initWindowOps c mode) = 0 := by
  unfold initWindowOps
  split <;> rfl

@[simp] theorem waitsIn_setPtr (x y : Int) : waitsIn (setPtrOps x y) = 1 := rfl

/-- INIT waits after its software reset and after its pointer, or not at all when the bring-up fails (R100). -/
theorem waitsIn_initAfter (mode : InitMode) (r : UpResult) : waitsIn (initAfter c mode r) ≤ 2 := by
  cases r with
  | failure => exact Nat.zero_le 2
  | success =>
    simp only [initAfter, initOps, waitsIn_append, waitsIn_sendBytes, waitsIn_initWindow, waitsIn_emitFrames,
      waitsIn_setPtr]
    exact Nat.le_refl 2

/-- A write waits in its refresh alone (R101 to R104, R136, R137). -/
theorem waitsIn_write {data refresh : List SeqOp} (hdata : waitsIn data = 0) (hrefresh : waitsIn refresh = 1) :
    waitsIn (data ++ refresh ++ [.respond respDone]) ≤ 1 := by
  rw [waitsIn_append, waitsIn_append, hdata, hrefresh]
  exact Nat.le_refl 1

/-- A BLIT waits after its pointer alone (R105). -/
theorem waitsIn_blit (base : Nat) (y : Int) (g : BlitGeom) : waitsIn (blitOps base y g) = 1 := by
  have hdata : waitsIn (blitDataOps base g) = 0 := waitsIn_eq_zero (by simp [blitDataOps_eq, waitOp])
  simp only [blitOps, waitsIn_append, hdata]
  rfl

end

/-- The framebuffer unit never waits (R167). -/
theorem waitsIn_framebuffer {ops : List SeqOp} (h : ops.all framebufferOp = true) : waitsIn ops = 0 := by
  refine waitsIn_eq_zero fun op hop => ?_
  have hfb := List.all_eq_true.1 h op hop
  cases op with
  | wait j => exact absurd hfb (by simp [framebufferOp])
  | _ => rfl

/-- The start of a request takes no busy sample: at most it performs the bring-up (R138). -/
theorem sampleCount_start {s u : State} (h : Start s u) : sampleCount u.log = sampleCount s.log := by
  cases h with
  | up => rw [bringUp_log, sampleCount_append]; rfl
  | same => rfl
  | mark => rfl
  | rot v => rfl

theorem start_startState (i : Instr) (s : State) : Start s (startState i s) := by
  unfold startState
  split
  · exact .up
  · exact .rot _
  · split
    · exact .mark
    · exact .same

/-- A protocol request runs a sequence with no more waits than R223 gives it. -/
theorem exec_protocol_waits {i : Instr} (hi : i.isRequest = true) (hf : framebufferRequest i = false) (s : State) :
    ∃ ops u, Start s u ∧ exec i s = .next (runOps ops u) ∧ waitsIn ops ≤ waitsOf i := by
  have ignored (k : Nat) : ∃ ops u, Start s u ∧
      (Host.Outcome.next (noop s) : Host.Outcome State Fault Refusal) = .next (runOps ops u) ∧ waitsIn ops ≤ k :=
    ⟨[.respond respDone], s, .same, rfl, Nat.zero_le k⟩
  cases i with
  | init mode =>
    have hwaits : waitsOf (.init mode) = 2 := by cases mode <;> rfl
    exact ⟨_, _, .up, rfl, hwaits ▸ waitsIn_initAfter s.cfg mode (upResult s)⟩
  | wrfull buf => exact ⟨_, _, .mark, rfl, waitsIn_write (waitsIn_dataPhase _ _ buf) rfl⟩
  | wrbase buf => exact ⟨_, _, .mark, rfl, waitsIn_write (by simp) rfl⟩
  | wrwhite => exact ⟨_, _, .mark, rfl, waitsIn_write (by simp) rfl⟩
  | wrpart buf => exact ⟨_, _, .mark, rfl, waitsIn_write (waitsIn_dataPhase _ _ buf) rfl⟩
  | blit buf x y wd ht =>
    cases buf with
    | none => exact ignored _
    | some a =>
      by_cases hargs : blitArgsOk (coord x) (coord y) (coord wd) (coord ht) = true
      · exact ⟨_, _, .mark, congrArg Host.Outcome.next (if_pos hargs), (waitsIn_blit _ _ _).le⟩
      · exact ⟨[.respond respDone], s, .same, congrArg Host.Outcome.next (if_neg hargs), Nat.zero_le _⟩
  | sleep => exact ⟨_, _, .mark, rfl, Nat.le_refl 1⟩
  | fbclear | fbsetpix | fbsetabs | setrot | rddim => exact absurd hf (by simp [framebufferRequest])
  | _ => exact absurd hi (by simp [Instr.isRequest])

/-- So does every request, the framebuffer's without a wait. -/
theorem exec_request_waits {i : Instr} (hi : i.isRequest = true) (s : State) :
    ∃ ops u, Start s u ∧ exec i s = .next (runOps ops u) ∧ waitsIn ops ≤ waitsOf i := by
  cases hf : framebufferRequest i with
  | true =>
    obtain ⟨ops, hrun, hops⟩ := exec_framebuffer_runs hf s
    exact ⟨ops, _, start_startState i s, hrun, (waitsIn_framebuffer hops).trans_le (Nat.zero_le _)⟩
  | false => exact exec_protocol_waits hi hf s

/-- Settles O52: a request's start takes no sample and its sequence no more than its waits allow; a frame takes none. -/
theorem boundedRequestsSampleBoundedly : Obligations.BoundedRequestsSampleBoundedly := by
  intro i s t n hn he
  cases hi : i.isRequest with
  | true =>
    obtain ⟨ops, u, hstart, hrun, hwaits⟩ := exec_request_waits hi s
    obtain rfl := Host.Outcome.next.inj (hrun.symm.trans he)
    calc sampleCount (runOps ops u).log
      _ ≤ sampleCount u.log + waitsIn ops * n := sampleCount_runOps ops u (by rw [hstart.fixed.1, hn])
      _ ≤ sampleCount u.log + waitsOf i * n := Nat.add_le_add_left (Nat.mul_le_mul_right n hwaits) _
      _ = sampleCount s.log + waitsOf i * n := by rw [sampleCount_start hstart]
  | false =>
    obtain ⟨f, hsent, -⟩ := exec_wireFrame i s hi
    obtain rfl := Host.Outcome.next.inj (hsent.symm.trans he)
    rw [sampleCount_sendFrame]
    exact Nat.le_add_right _ _

end Sys2Proof.ExceptionsFamily
end

section
/-! PROOFS of the family 70_reset_and_hazards.md: waiting for a request, and what reset establishes (R250, R34). -/

namespace Sys2Proof.ResetFamily

open Sys2Proof Machine Safety StateFamily

/-- Settles O10: an idle step looks at the port, and finding no request there keeps the state. -/
theorem emptyPortWaits : Obligations.EmptyPortWaits := by
  intro s hseq hport
  calc step s = fetchRequest s := step_idle s hseq
    _ = .next s := fetchRequest_nil s hport

/-- With no request in progress there is no frame left that R70 could forbid. -/
theorem seqAllowed_of_idle {s : State} (h : Idle s) : seqAllowed s = true := by
  rw [seqAllowed_eq, show s.seq = [] from h, List.all_nil]

/-- At reset nothing has been driven, both latches are `NONE`, and `UNINIT` goes with a reset pin not yet driven (R26, R29,
R34). -/
theorem inv_resetWith (c : Config) : Inv (State.resetWith c) := by
  obtain ⟨-, -, -, hrst, hdc, hlife, -, -, hseq, -, hlog, -, -⟩ := resetLeavesTheSpecValues c
  refine ⟨?memory, ?rstLatch, ?dcLatch, ?agree⟩
  case memory => rfl
  case rstLatch => rw [hrst, hlog]; rfl
  case dcLatch => rw [hdc, hlog]; rfl
  case agree => rw [hlife, hrst, hseq]; rfl

/-- Settles O60: no request is in progress or latched at reset, under any configuration. -/
theorem resetHasTheInvariant : Obligations.ResetHasTheInvariant := by
  intro c
  obtain ⟨-, -, -, -, -, -, -, -, hseq, hlatched, -, -, -⟩ := resetLeavesTheSpecValues c
  exact ⟨inv_resetWith c, seqAllowed_of_idle hseq, .inl ⟨hseq, hlatched⟩⟩

end Sys2Proof.ResetFamily
end

section
/-! PROOFS of the test vectors: the words written out in 95_test_vectors.md are the encodings of the instructions they
name. -/

namespace Sys2Proof.VectorsFamily

open Sys2Proof

/-- The reference configuration meets every constraint of R7. -/
theorem configOk_ref : configOk Config.ref = true := by decide

/-- Words that are the encoding of a well-formed instruction decode to it under the reference configuration. -/
theorem decode_ref_of_encode {i : Instr} {e : Encoded} (henc : encode i = e) (hwf : i.wf Config.ref = true) :
    decode Config.ref e = .ok i := by
  rw [← henc]
  exact EncodingFamily.decodeOfEncode Config.ref i configOk_ref hwf

/-- Settles O1: each vector's words are those the encoder writes for the instruction the vector names, and `0x1000` is an
address of the reference configuration. -/
theorem writtenWordsDecode : Obligations.WrittenWordsDecode := by
  refine ⟨decode_ref_of_encode ?initHigh rfl,
    decode_ref_of_encode ?wrfull ?wrfullAddress,
    decode_ref_of_encode ?wrfullNull rfl,
    decode_ref_of_encode ?blit ?blitAddress,
    decode_ref_of_encode ?fbclear ?fbclearAddress,
    decode_ref_of_encode ?fbsetpix ?fbsetpixAddress,
    decode_ref_of_encode ?setrot rfl,
    decode_ref_of_encode ?ramYCounter rfl,
    decode_ref_of_encode ?data rfl⟩
  all_goals decide

end Sys2Proof.VectorsFamily
end
